-- ==== Sys2Proof/Word.lean ====
section
/-! DEFINITION. The word types of the spec (00_scope.md R13, R14): bytes and the wider fields built from them. -/

namespace Sys2Proof

/-- A byte of the stream, 0 to 255 (00_scope.md R13). -/
abbrev Byte := BitVec 8
/-- A `u16` field (30_encoding.md R96). -/
abbrev Word16 := BitVec 16
/-- A `u32` or `i32` field (30_encoding.md R96); the signed reading is `BitVec.toInt`. -/
abbrev Word32 := BitVec 32
/-- An `f64` field as its 64-bit pattern (30_encoding.md R96). -/
abbrev Word64 := BitVec 64

/-- The opaque deadline token of an ADVANCE (44_scanner.md R193). The block only copies it, so its type carries
no meaning (DESIGN CHOICE, log 22). -/
abbrev Token := Nat

end Sys2Proof
end

