-- ==== Sys2Proof/Syntax.lean ====
section
/-! DEFINITION. The syntax: one constructor of `Instr` per row of spec/opcode_table.json, and the words and records that
the rows speak of (10_state.md R31, 30_encoding.md R94, R98, R105, 44_scanner.md R192). -/

namespace Sys2Proof

/-- Classification of a kind byte (30_encoding.md R94). -/
inductive Tag where
  | version
  | position
  | status
  | dilutionOfPrecision
  | velocity
  | satelliteList
  | unknown (k : Byte)
deriving DecidableEq, Repr, Inhabited

/-- Decoded Version (10_state.md R31, 42_message_decoders.md R153). -/
structure VersionRec where
  timeGPS : Word32
  high    : Byte
  medium  : Byte
  low     : Byte
deriving DecidableEq, Repr, Inhabited

/-- Decoded Position (R31, R154); the four floats are bit patterns. -/
structure PositionRec where
  timeGPS            : Word32
  longitude          : Word64
  latitude           : Word64
  altitudeEllipsoid  : Word64
  altitudeMSL        : Word64
  horizontalAccuracy : Word32
  verticalAccuracy   : Word32
deriving DecidableEq, Repr, Inhabited

/-- Decoded Status (R31, R155); `fixType` is the raw byte (R99). -/
structure StatusRec where
  timeGPS : Word32
  weekGPS : Word16
  fixType : Byte
  hasFix  : Byte
  numSVs  : Byte
deriving DecidableEq, Repr, Inhabited

/-- Decoded DilutionOfPrecision (R31, R156), raw integers. -/
structure DopRec where
  timeGPS    : Word32
  geometric  : Word16
  position   : Word16
  vertical   : Word16
  horizontal : Word16
deriving DecidableEq, Repr, Inhabited

/-- Decoded Velocity (R31, R157). `north`, `east`, `down`, `heading` are `i32`: their value is the signed reading
of the 32 bits (`Machine.readNorth` and its like); `speed`, `speedAccuracy` are `u32`. -/
structure VelocityRec where
  timeGPS       : Word32
  north         : Word32
  east          : Word32
  down          : Word32
  speed         : Word32
  heading       : Word32
  speedAccuracy : Word32
deriving DecidableEq, Repr, Inhabited

/-- The fixed part of a decoded SatelliteList (R31, R158). -/
structure SatListRec where
  timeGPS : Word32
  numSVs  : Byte
deriving DecidableEq, Repr, Inhabited

/-- One satellite sub-record (30_encoding.md R98, 43_satellite_iterator.md R182); `satType` is the raw byte (R99);
`carrierPhase`, `pseudoRangeResidual`, `dopplerFrequency` are `i32`. -/
structure SubRec where
  id                  : Byte
  satType             : Byte
  carrierPhase        : Word32
  pseudoRangeResidual : Word32
  dopplerFrequency    : Word32
  signalStrength      : Word16
  azimuth             : Word16
  elevation           : Word16
deriving DecidableEq, Repr, Inhabited

/-- The decoded value `VAL`, a tagged union (10_state.md R30, R31). -/
inductive Value where
  | version (r : VersionRec)
  | position (r : PositionRec)
  | status (r : StatusRec)
  | dilutionOfPrecision (r : DopRec)
  | velocity (r : VelocityRec)
  | satelliteList (r : SatListRec)
  | unknown (payload : List Byte)
deriving DecidableEq, Repr, Inhabited

/-- The instructions: packets (format PKT), host commands (HOST), source events (SRC) and internal operations
(INTERNAL) of 30_encoding.md R104. A packet carries its payload and its 16-bit checksum field as received; its
length field is the payload's length (R90), and its kind byte is its constructor's. -/
inductive Instr where
  | version (payload : List Byte) (ck : Word16)
  | position (payload : List Byte) (ck : Word16)
  | status (payload : List Byte) (ck : Word16)
  | dilutionOfPrecision (payload : List Byte) (ck : Word16)
  | velocity (payload : List Byte) (ck : Word16)
  | satelliteList (payload : List Byte) (ck : Word16)
  | unknown (kind : Byte) (payload : List Byte) (ck : Word16)
  | advance (deadline : Option Token)
  | currentKind
  | nextSatellite
  | rawPacket
  | getVersion
  | getPosition
  | getStatus
  | getDop
  | getVelocity
  | getSatlist
  | getUnknown
  | data (chunk : List Byte)
  | eos
  | ioerr
  | ckClear
  | ckUpdate (x : Byte)
  | ckResult
  | locate
deriving DecidableEq, Repr

/-- What the host port carries (30_encoding.md R105): a 4-bit command code, or the code of ADVANCE with its
optional deadline token. -/
inductive HostWord where
  | code (c : BitVec 4)
  | advanceBy (deadline : Token)
deriving DecidableEq, Repr

/-- An answer of the source to a read request (44_scanner.md R192). -/
inductive SrcEvent where
  | data (chunk : List Byte)
  | eos
  | ioerr
deriving DecidableEq, Repr

/-- What the host does next (70_reset_and_hazards.md R263): give a command, let one step pass, or reset the block
together with the attachment of a fresh source (R250). `pause` only says when a reset falls (log 3). -/
inductive HostEvent where
  | command (w : HostWord)
  | pause
  | reset (source : List SrcEvent)
deriving DecidableEq, Repr

/-- The two forms in which an instruction reaches the block (30_encoding.md R104): bytes of the stream, or a word
of the host port. Source events and internal operations have no encoding. -/
inductive Encoded where
  | stream (bytes : List Byte)
  | host (w : HostWord)
deriving DecidableEq, Repr

end Sys2Proof
end

