-- ==== Sys2Proof/Config.lean ====
section
/-! DEFINITION. Constants and parameters (00_scope.md section 4, R9, R10) and the free values of the model. -/

namespace Sys2Proof

namespace Config

/-- First sync byte, "E". -/
abbrev sync0 : Byte := 0x45
/-- Second sync byte, "R". -/
abbrev sync1 : Byte := 0x52
/-- Bytes before the payload. -/
abbrev hdrLen : Nat := 5
/-- Bytes of the trailing checksum. -/
abbrev ckLen : Nat := 2
/-- Largest payload length. -/
abbrev maxPayload : Nat := 65535
/-- Longest packet, `HDR_LEN + MAX_PAYLOAD + CK_LEN`. -/
abbrev maxPacket : Nat := hdrLen + maxPayload + ckLen
abbrev lenVersion : Nat := 7
abbrev lenPosition : Nat := 44
abbrev lenStatus : Nat := 9
abbrev lenDop : Nat := 12
abbrev lenVelocity : Nat := 28
/-- Fixed part of a SatelliteList payload. -/
abbrev sviHdrLen : Nat := 5
/-- Bytes of one satellite sub-record. -/
abbrev svRecLen : Nat := 20
/-- The one supported protocol version, 0.1.0. -/
abbrev verHigh : Byte := 0
abbrev verMedium : Byte := 1
abbrev verLow : Byte := 0

/-- FREE VALUE: `ERRINFO` for `E_IO`, which 10_state.md R21 leaves unspecified (log 6). -/
opaque freeErrInfo : Nat → Nat × Nat
/-- FREE VALUE: `KIND` after entry to Failed or Exhausted (60_exceptions.md R226, 93 U9; log 6). -/
opaque freeKind : Nat → Byte
/-- FREE VALUE: `PKT` after entry to Failed or Exhausted (log 6). -/
opaque freePkt : Nat → List Byte
/-- FREE VALUE: `PKTLEN` after entry to Failed or Exhausted (log 6). -/
opaque freePktLen : Nat → BitVec 17
/-- FREE VALUE: `VAL` after entry to Failed or Exhausted (log 6). -/
opaque freeVal : Nat → Value
/-- FREE VALUE: `SVCUR` after entry to Failed or Exhausted (log 6). -/
opaque freeSvCur : Nat → Byte
/-- FREE VALUE: `SVCNT` after entry to Failed or Exhausted (log 6). -/
opaque freeSvCnt : Nat → Byte
/-- FREE VALUE: the binary64 rendering of a scaled raw value, open by 92 D14 (log 18). -/
opaque freeF64 (raw : Int) (num den : Nat) : Word64

/-- `toF64` (00_scope.md R17): open, but for the three values the document gives (95 S9, S10, S11). -/
def toF64 (raw : Int) (num den : Nat) : Word64 :=
  if raw = 123 ∧ num = 1 ∧ den = 100 then 0x3FF3AE147AE147AE
  else if raw = 1000000 ∧ num = 1 ∧ den = 100000 then 0x4024000000000000
  else if raw = 160 ∧ num = 1 ∧ den = 4 then 0x4044000000000000
  else freeF64 raw num den

end Config

/-- The build parameters a model takes as arguments (00_scope.md R9, 10_state.md R29): the six kind codes and the
most bytes one delivery may carry (`none`: any finite delivery, as 92 D3 allows). No step writes them (R10). -/
structure Params where
  kindVersion  : Byte
  kindPosition : Byte
  kindStatus   : Byte
  kindDop      : Byte
  kindVelocity : Byte
  kindSatlist  : Byte
  chunkMax     : Option Nat
deriving DecidableEq, Repr

/-- The defaults of 00_scope.md section 4 (PRESUMED there: `[from general knowledge, not in source]`; log 1), with
no bound on a delivery (DESIGN CHOICE, log 2). -/
def Params.default : Params :=
  { kindVersion := 0x01, kindPosition := 0x02, kindStatus := 0x03, kindDop := 0x04, kindVelocity := 0x05,
    kindSatlist := 0x06, chunkMax := none }

/-- The six kind codes, in the order of 00_scope.md R9. -/
def Params.kinds (cfg : Params) : List Byte :=
  [cfg.kindVersion, cfg.kindPosition, cfg.kindStatus, cfg.kindDop, cfg.kindVelocity, cfg.kindSatlist]

end Sys2Proof
end

