-- ==== Sys2Proof/WellFormed.lean ====
section
/-! DEFINITION. Which parameters and which instructions are well formed. -/

namespace Sys2Proof

/-- The kind codes are pairwise distinct (00_scope.md R9) and `CHUNK_MAX` is at least 1 (00_scope.md section 4). -/
def Params.wf (cfg : Params) : Bool :=
  decide cfg.kinds.Nodup && (match cfg.chunkMax with | none => true | some m => decide (1 ≤ m))

/-- A payload whose length the 2-byte length field holds (30_encoding.md R90). -/
def payloadFits (q : List Byte) : Bool := decide (q.length ≤ Config.maxPayload)

/-- A delivery is at most `CHUNK_MAX` bytes (44_scanner.md R192). -/
def Params.chunkFits (cfg : Params) (c : List Byte) : Bool :=
  match cfg.chunkMax with
  | none => true
  | some m => decide (c.length ≤ m)

/-- Well-formed instructions: a packet's payload fits its length field and an Unknown packet's kind is none of the
six codes (30_encoding.md R90, R94); a delivery carries 1 to `CHUNK_MAX` bytes (44_scanner.md R192). A wrong payload
length for a kind or a wrong checksum is not ill-formed: it is an error of that packet (R101, R104). -/
def Instr.wf (cfg : Params) : Instr → Bool
  | .version q _ => payloadFits q
  | .position q _ => payloadFits q
  | .status q _ => payloadFits q
  | .dilutionOfPrecision q _ => payloadFits q
  | .velocity q _ => payloadFits q
  | .satelliteList q _ => payloadFits q
  | .unknown k q _ => payloadFits q && !(cfg.kinds.contains k)
  | .advance _ => true
  | .currentKind => true
  | .nextSatellite => true
  | .rawPacket => true
  | .getVersion => true
  | .getPosition => true
  | .getStatus => true
  | .getDop => true
  | .getVelocity => true
  | .getSatlist => true
  | .getUnknown => true
  | .data c => decide (1 ≤ c.length) && cfg.chunkFits c
  | .eos => true
  | .ioerr => true
  | .ckClear => true
  | .ckUpdate _ => true
  | .ckResult => true
  | .locate => true

end Sys2Proof
end

