-- ==== Sys2Proof/Decode.lean ====
section
/-! DEFINITION. Decoding, total and rejecting by name, and after it the encoder: the byte strings of 00_scope.md R13
and R14, the packet format of 30_encoding.md R90 to R95, the host command codes of R105. -/

namespace Sys2Proof

/-! ## Byte strings -/

/-- `B[o]` (00_scope.md R13). A read outside `B` gives 0; no rule makes one (20_memory.md R67; log 21). -/
def byteAt (b : List Byte) (o : Nat) : Byte := b.getD o 0

/-- `B[i:j)` (00_scope.md R13). -/
def slice (b : List Byte) (i j : Nat) : List Byte := (b.drop i).take (j - i)

/-- `le16(B, o)` (00_scope.md R14, 20_memory.md R60). -/
def le16 (b : List Byte) (o : Nat) : Word16 := byteAt b (o + 1) ++ byteAt b o
/-- `le32(B, o)` (R14). -/
def le32 (b : List Byte) (o : Nat) : Word32 := le16 b (o + 2) ++ le16 b o
/-- `le64(B, o)` (R14). -/
def le64 (b : List Byte) (o : Nat) : Word64 := le32 b (o + 4) ++ le32 b o
/-- `i32le(B, o) = s32(le32(B, o))` (R14): the two's-complement reading. -/
def i32le (b : List Byte) (o : Nat) : Int := (le32 b o).toInt

/-- The low byte of a 16-bit value, which arrives first (20_memory.md R60). -/
def loByte (v : Word16) : Byte := v.extractLsb' 0 8
/-- The high byte of a 16-bit value. -/
def hiByte (v : Word16) : Byte := v.extractLsb' 8 8

/-- `U16(v)` (30_encoding.md R108). -/
def bytesU16 (v : Word16) : List Byte := [loByte v, hiByte v]
/-- `U32(v)`, and `I32(v)` on a two's-complement pattern (R108). -/
def bytesU32 (v : Word32) : List Byte := bytesU16 (v.extractLsb' 0 16) ++ bytesU16 (v.extractLsb' 16 16)

/-! ## The packet format -/

/-- `tag(k)` (30_encoding.md R94). -/
def tag (cfg : Params) (k : Byte) : Tag :=
  if k = cfg.kindVersion then .version
  else if k = cfg.kindPosition then .position
  else if k = cfg.kindStatus then .status
  else if k = cfg.kindDop then .dilutionOfPrecision
  else if k = cfg.kindVelocity then .velocity
  else if k = cfg.kindSatlist then .satelliteList
  else .unknown k

/-- Whether a tag is one of the six known ones. -/
def tagKnown : Tag → Bool
  | .unknown _ => false
  | _ => true

/-- The two bytes of the length field of a payload (30_encoding.md R90). -/
def lengthField (q : List Byte) : Word16 := BitVec.ofNat 16 q.length

/-- The range the checksum covers: kind byte, length bytes, payload (30_encoding.md R93). -/
def covered (k : Byte) (q : List Byte) : List Byte := k :: (bytesU16 (lengthField q) ++ q)

/-- The whole packet (30_encoding.md R90, R92). -/
def packetBytes (k : Byte) (q : List Byte) (ck : Word16) : List Byte :=
  Config.sync0 :: Config.sync1 :: (covered k q ++ bytesU16 ck)

/-- `B` begins with the sync marker (41_frame_locator.md R132). -/
def aligned (b : List Byte) : Bool := decide (byteAt b 0 = Config.sync0) && decide (byteAt b 1 = Config.sync1)

/-- `N = le16(B, 3)` (30_encoding.md R90). -/
def payloadLen (b : List Byte) : Nat := (le16 b 3).toNat
/-- `T = 5 + N + 2`, without wrap (30_encoding.md R91, 00_scope.md R11). -/
def totalLen (b : List Byte) : Nat := Config.hdrLen + payloadLen b + Config.ckLen

/-- The payload of a packet given its kind byte and parts: which instruction the kind selects (30_encoding.md R94,
42_message_decoders.md R160). -/
def kindInstr (cfg : Params) (k : Byte) (q : List Byte) (ck : Word16) : Instr :=
  match tag cfg k with
  | .version => .version q ck
  | .position => .position q ck
  | .status => .status q ck
  | .dilutionOfPrecision => .dilutionOfPrecision q ck
  | .velocity => .velocity q ck
  | .satelliteList => .satelliteList q ck
  | .unknown k => .unknown k q ck

/-- The instruction a whole packet `P` is: payload `P[5:5+N)`, checksum field `le16(P, 5+N)` (R90). -/
def packetInstr (cfg : Params) (p : List Byte) : Instr :=
  let n := payloadLen p
  kindInstr cfg (byteAt p 2) (slice p Config.hdrLen (Config.hdrLen + n)) (le16 p (Config.hdrLen + n))

/-! ## Decoding -/

/-- Why no instruction is read. -/
inductive Reject where
  /-- Fewer than 5 bytes: kind and length are not all there (41_frame_locator.md R131). -/
  | tooShort
  /-- The bytes do not begin with the sync marker (30_encoding.md R101). -/
  | notAligned
  /-- Fewer bytes than the length field announces (41_frame_locator.md R134). -/
  | incomplete
  /-- Bytes stand after a packet that was to be the whole word. -/
  | trailingBytes
  /-- A host code that is no command (30_encoding.md R105). -/
  | notACommand
deriving DecidableEq, Repr

/-- The packet at the head of a byte string, with the bytes after it (30_encoding.md R91, R103). -/
def decodePacket (cfg : Params) (b : List Byte) : Except Reject (Instr × List Byte) :=
  if b.length < Config.hdrLen then .error .tooShort
  else if aligned b = false then .error .notAligned
  else if b.length < totalLen b then .error .incomplete
  else .ok (packetInstr cfg (b.take (totalLen b)), b.drop (totalLen b))

/-- The command a 4-bit host code names (30_encoding.md R105). -/
def decodeCode (c : BitVec 4) : Except Reject Instr :=
  match c.toNat with
  | 0 => .ok (.advance none)
  | 1 => .ok .currentKind
  | 2 => .ok .nextSatellite
  | 3 => .ok .rawPacket
  | 8 => .ok .getVersion
  | 9 => .ok .getPosition
  | 10 => .ok .getStatus
  | 11 => .ok .getDop
  | 12 => .ok .getVelocity
  | 13 => .ok .getSatlist
  | 14 => .ok .getUnknown
  | _ => .error .notACommand

/-- The command a word of the host port names (R105). -/
def decodeHost : HostWord → Except Reject Instr
  | .code c => decodeCode c
  | .advanceBy d => .ok (.advance (some d))

/-- The instruction an encoded word is, whole. -/
def decode (cfg : Params) : Encoded → Except Reject Instr
  | .stream b =>
    match decodePacket cfg b with
    | .error r => .error r
    | .ok (i, []) => .ok i
    | .ok (_, _ :: _) => .error .trailingBytes
  | .host w => decodeHost w

/-! ## Encoding -/

/-- The encoding of an instruction, from the same tables; source events and internal operations have none (R104). -/
def encode (cfg : Params) : Instr → Option Encoded
  | .version q ck => some (.stream (packetBytes cfg.kindVersion q ck))
  | .position q ck => some (.stream (packetBytes cfg.kindPosition q ck))
  | .status q ck => some (.stream (packetBytes cfg.kindStatus q ck))
  | .dilutionOfPrecision q ck => some (.stream (packetBytes cfg.kindDop q ck))
  | .velocity q ck => some (.stream (packetBytes cfg.kindVelocity q ck))
  | .satelliteList q ck => some (.stream (packetBytes cfg.kindSatlist q ck))
  | .unknown k q ck => some (.stream (packetBytes k q ck))
  | .advance none => some (.host (.code 0x0))
  | .advance (some d) => some (.host (.advanceBy d))
  | .currentKind => some (.host (.code 0x1))
  | .nextSatellite => some (.host (.code 0x2))
  | .rawPacket => some (.host (.code 0x3))
  | .getVersion => some (.host (.code 0x8))
  | .getPosition => some (.host (.code 0x9))
  | .getStatus => some (.host (.code 0xA))
  | .getDop => some (.host (.code 0xB))
  | .getVelocity => some (.host (.code 0xC))
  | .getSatlist => some (.host (.code 0xD))
  | .getUnknown => some (.host (.code 0xE))
  | .data _ => none
  | .eos => none
  | .ioerr => none
  | .ckClear => none
  | .ckUpdate _ => none
  | .ckResult => none
  | .locate => none

/-! ## Words numbered as spec/opcode_table.json numbers them -/

/-- Byte `k` of a 40-bit PKT word: `P[0]` in bits 39 to 32, `P[4]` in bits 7 to 0 (30_encoding.md R104; log 14). -/
def tableByte (w k : Nat) : Byte := BitVec.ofNat 8 (w / 256 ^ (4 - k))

/-- The packet a PKT word begins, its payload and checksum bytes all zero. -/
def tablePacket (w : Nat) : List Byte :=
  let h := [tableByte w 0, tableByte w 1, tableByte w 2, tableByte w 3, tableByte w 4]
  h ++ List.replicate (payloadLen h + Config.ckLen) 0

/-- The encoded form of a table word: a host code (4 bits, given as a byte) or the 5 header bytes of a packet. -/
def tableWord (nbits w : Nat) : Option Encoded :=
  if nbits = 40 ∧ w < 2 ^ 40 then some (.stream (tablePacket w))
  else if 4 ≤ nbits ∧ nbits ≤ 8 ∧ w < 16 then some (.host (.code (BitVec.ofNat 4 w)))
  else none

/-- The instruction the decoder reads from a word of spec/opcode_table.json, under the default kind codes the table
uses (R104). -/
def decodeTableWord (nbits w : Nat) : Option Instr :=
  match tableWord nbits w with
  | none => none
  | some e => (decode Params.default e).toOption

end Sys2Proof
end

