-- ==== Sys2Proof/Machine/State.lean ====
section
/-! DEFINITION. The state of the block and its reset value (10_state.md R20 to R39), as plain data. -/

namespace Sys2Proof.Machine

/-- `ST` (10_state.md R20). -/
inductive ScanState where
  | idle
  | holding
  | exhausted
  | failed
deriving DecidableEq, Repr

/-- `PHASE` (10_state.md R24). -/
inductive Phase where
  | ready
  | run
  | waitSrc
deriving DecidableEq, Repr

/-- `ERR` (10_state.md R21, 60_exceptions.md R238). -/
inductive ErrCode where
  | none
  | checksum
  | shape
  | version
  | field
  | io
deriving DecidableEq, Repr

/-- An error with its detail, `(e, info)` (10_state.md R21). -/
abbrev ErrDetail := ErrCode × (Nat × Nat)

/-- Outcome of the Frame Locator (41_frame_locator.md R130). -/
inductive LocOutcome where
  | needMore
  | skip (k : Nat)
  | emit (p : List Byte) (t : Nat)
  | fatal (e : ErrCode) (info : Nat × Nat)
deriving DecidableEq, Repr

/-- Response to a host command (30_encoding.md R106). -/
inductive Response where
  | ok (t : Tag) (kind : Byte)
  | endOfSequence
  | fail (e : ErrCode) (info : Nat × Nat)
  | some (r : SubRec)
  | value (v : Value)
  | bytes (b : List Byte)
  | invalid
deriving DecidableEq, Repr

/-- What an internal operation returned (40_checksum.md R123, 41_frame_locator.md R130; log 8). -/
inductive UnitResult where
  | checksum (v : Word16)
  | located (o : LocOutcome)
deriving DecidableEq, Repr

/-- `READ_REQ(deadline)` (44_scanner.md R192). -/
structure ReadReq where
  deadline : Option Token
deriving DecidableEq, Repr

/-- The steps to which the spec gives no transition; each stops the model and is safe (93 U14, U15, U16; log 9 to 11). -/
inductive Fault where
  /-- Raised by every host command when `PHASE` is not Ready (44_scanner.md R190). Safe. -/
  | commandInFlight
  /-- Raised by the fetch of a host word whose code is no command (30_encoding.md R105). Safe. -/
  | notACommand
  /-- Raised by DATA, EOS and IOERR when no read request is outstanding (44_scanner.md R192). Safe. -/
  | unaskedAnswer
  /-- Raised by DATA with more than `CHUNK_MAX` bytes (44_scanner.md R192). Safe. -/
  | deliveryTooLong
  /-- Raised by a packet executed when the block is not at the Run step (44_scanner.md R195). Safe. -/
  | notAtRunStep
deriving DecidableEq, Repr

/-- Reasons to give an instruction no meaning. -/
inductive Refusal where
  /-- Raised by a refused arm of `exec`; no arm is refused. Safe. -/
  | notModelled (mnemonic : String)
deriving DecidableEq, Repr

/-- The state of one instance (10_state.md). The last group is the model's rendering of the two ports (log 3, 8)
and of the free values (log 6). -/
structure State where
  /-- Build parameters, written by no step (00_scope.md R10). -/
  cfg      : Params
  /-- `ST` (R20). -/
  st       : ScanState
  /-- `ERR` (R21). -/
  err      : ErrCode
  /-- `ERRINFO` (R21). -/
  errInfo  : Nat × Nat
  /-- `BUF` (R22). -/
  buf      : List Byte
  /-- `POS` (R23), ghost. -/
  pos      : Nat
  /-- `PHASE` (R24). -/
  phase    : Phase
  /-- `KIND` (R25). -/
  kind     : Byte
  /-- `PKT` (R26). -/
  pkt      : List Byte
  /-- `PKTLEN` (R26), 17 bits. -/
  pktLen   : BitVec 17
  /-- `VAL` (R30, R31). -/
  val      : Value
  /-- `SVCUR` (R32). -/
  svCur    : Byte
  /-- `SVCNT` (R33). -/
  svCnt    : Byte
  /-- `CKA` (R34). -/
  ckA      : Byte
  /-- `CKB` (R34). -/
  ckB      : Byte
  /-- Deadline token of the ADVANCE in flight (44_scanner.md R193). -/
  deadline : Option Token
  /-- Response to the command last accepted; none while an ADVANCE is in flight (R190). -/
  resp     : Option Response
  /-- The outstanding read request (R192, R196). -/
  rdReq    : Option ReadReq
  /-- What the last internal operation returned (40_checksum.md R123, 41_frame_locator.md R130). -/
  unitOut  : Option UnitResult
  /-- What the host does next, first to last (log 3). -/
  hostQ    : List HostEvent
  /-- What the source answers next, first to last (10_state.md R29; log 3). -/
  srcQ     : List SrcEvent
  /-- The model's own: index of the next free value (log 6). -/
  freeCtr  : Nat
deriving DecidableEq, Repr

/-- The state after reset (10_state.md R39): Idle, nothing buffered, `POS` 0, Ready. The elements R39 leaves without
a value hold the values of log 5 (DESIGN CHOICE). No source is attached yet (70_reset_and_hazards.md R253; log 27). -/
def State.reset : State :=
  { cfg := Params.default
    st := .idle, err := .none, errInfo := (0, 0)
    buf := [], pos := 0, phase := .ready
    kind := 0, pkt := [], pktLen := 0, val := .unknown []
    svCur := 0, svCnt := 0, ckA := 0, ckB := 0
    deadline := none, resp := none, rdReq := none, unitOut := none
    hostQ := [], srcQ := [], freeCtr := 0 }

end Sys2Proof.Machine
end

