-- ==== Sys2Proof/Machine/Checksum.lean ====
section
/-! DEFINITION. The Checksum unit (40_checksum.md): the function CHECKSUM and the operations CK_CLEAR, CK_UPDATE,
CK_RESULT. -/

namespace Sys2Proof.Machine

/-- One byte into the accumulators `(a, b)`: `a` first, then `b` with the new `a`, both modulo 256 (R121). -/
def ckAdd (ab : Byte × Byte) (x : Byte) : Byte × Byte := (ab.1 + x, ab.2 + (ab.1 + x))

/-- The accumulators after `X`, both starting at zero (R120). -/
def ckFold (x : List Byte) : Byte × Byte := x.foldl ckAdd (0, 0)

/-- The 16-bit value of the accumulators, `(b << 8) | a` (R123). -/
def ckValue (ab : Byte × Byte) : Word16 := ab.2 ++ ab.1

/-- `CHECKSUM(X)` (R120). -/
def checksum (x : List Byte) : Word16 := ckValue (ckFold x)

/-- The two registers with new contents. -/
def setCk (ab : Byte × Byte) (s : State) : State := { s with ckA := ab.1, ckB := ab.2 }

/-- CK_CLEAR (R122). -/
def execCkClear (s : State) : Host.Outcome State Fault Refusal := .next (setCk (0, 0) s)

/-- CK_UPDATE(x) (R121). -/
def execCkUpdate (x : Byte) (s : State) : Host.Outcome State Fault Refusal := .next (setCk (ckAdd (s.ckA, s.ckB) x) s)

/-- CK_RESULT (R123): it returns the value and changes neither register; the value returned stands in `unitOut`
(log 8). -/
def execCkResult (s : State) : Host.Outcome State Fault Refusal :=
  .next { s with unitOut := some (.checksum (ckValue (s.ckA, s.ckB))) }

/-- `PKT(k; p)` of 30_encoding.md R108: the packet with its right checksum. -/
def validPacket (k : Byte) (q : List Byte) : List Byte := packetBytes k q (checksum (covered k q))

/-- `BADCK(k; p)` of 30_encoding.md R108: the low checksum byte replaced by itself `+8 1`. -/
def badPacket (k : Byte) (q : List Byte) : List Byte :=
  packetBytes k q (hiByte (checksum (covered k q)) ++ (loByte (checksum (covered k q)) + 1))

end Sys2Proof.Machine
end

