-- ==== Sys2Proof/Machine/Locator.lean ====
section
/-! DEFINITION. The Frame Locator (41_frame_locator.md): the search for the marker, the checks of a packet, LOCATE. -/

namespace Sys2Proof.Machine

/-- `expected_len(k, Q)` (42_message_decoders.md R150); `none` for an Unknown kind, which has no shape. -/
def expectedLen (cfg : Params) (k : Byte) (q : List Byte) : Option Nat :=
  match tag cfg k with
  | .version => some Config.lenVersion
  | .position => some Config.lenPosition
  | .status => some Config.lenStatus
  | .dilutionOfPrecision => some Config.lenDop
  | .velocity => some Config.lenVelocity
  | .satelliteList =>
    if q.length < Config.sviHdrLen then some Config.sviHdrLen
    else some (Config.sviHdrLen + Config.svRecLen * (byteAt q 4).toNat)
  | .unknown _ => none

/-- The shape error of a packet with kind `k` and payload `q`, if any (41_frame_locator.md R136). -/
def shapeFault (cfg : Params) (k : Byte) (q : List Byte) : Option ErrDetail :=
  match expectedLen cfg k q with
  | none => none
  | some x => if q.length = x then none else some (.shape, (x, q.length))

/-- Steps 4 and 5, in that order: checksum over the covered range `x` (kind, length, payload) against the field `ck`,
then shape (41_frame_locator.md R135, R136; priority 60_exceptions.md R228). -/
def packetFault (cfg : Params) (x : List Byte) (ck : Word16) : Option ErrDetail :=
  if checksum x = ck then shapeFault cfg (byteAt x 0) (x.drop 3)
  else some (.checksum, ((checksum x).toNat, ck.toNat))

/-- The least offset, counted from `i`, at which the two-byte marker stands whole (41_frame_locator.md R132). -/
def findMarker (i : Nat) : List Byte → Option Nat
  | x :: y :: rest =>
    if x = Config.sync0 ∧ y = Config.sync1 then some i else findMarker (i + 1) (y :: rest)
  | _ => none

/-- The range of a packet that the checksum covers, `P[2 : 5+N)` (30_encoding.md R93). -/
def coveredOf (p : List Byte) : List Byte := slice p 2 (Config.hdrLen + payloadLen p)

/-- The checksum field of a packet, `le16(P, 5+N)` (30_encoding.md R90). -/
def ckFieldOf (p : List Byte) : Word16 := le16 p (Config.hdrLen + payloadLen p)

/-- `LOCATE(B)` (41_frame_locator.md R138). -/
def locator (cfg : Params) (b : List Byte) : LocOutcome :=
  if b.length < Config.hdrLen then .needMore
  else if aligned b = false then
    match findMarker 1 (b.drop 1) with
    | some i => .skip i
    | none => .skip b.length
  else if b.length < totalLen b then .needMore
  else
    match packetFault cfg (coveredOf (b.take (totalLen b))) (ckFieldOf (b.take (totalLen b))) with
    | some (e, info) => .fatal e info
    | none => .emit (b.take (totalLen b)) (totalLen b)

/-- Whether LOCATE reaches step 4 on `b`: an aligned, complete packet stands at its head. -/
def reachesChecksum (b : List Byte) : Bool :=
  decide (Config.hdrLen ≤ b.length) && aligned b && decide (totalLen b ≤ b.length)

/-- LOCATE run on the present `BUF`: the outcome is returned in `unitOut` (log 8), and where step 4 is reached the
Checksum unit has been cleared and has run over `P[2 : 5+N)` (41_frame_locator.md R130, R135; the accumulators are
scratch, 10_state.md R38). -/
def locateBuf (s : State) : State :=
  { (if reachesChecksum s.buf then setCk (ckFold (coveredOf (s.buf.take (totalLen s.buf)))) s else s) with
    unitOut := some (.located (locator s.cfg s.buf)) }

/-- LOCATE (R130, R138): no other state is written. What the Scanner does with the outcome is `Machine.fetch`
(44_scanner.md R195; log 15). -/
def execLocate (s : State) : Host.Outcome State Fault Refusal := .next (locateBuf s)

end Sys2Proof.Machine
end

