-- ==== Sys2Proof/Machine/Ops.lean ====
section
/-! DEFINITION. The named operations over BUF, PKT and the registers that the meanings share: responses, reads,
consuming the stream, trap entry, the end of the stream, holding a packet, reset. -/

namespace Sys2Proof.Machine

/-- A command answered at once, `PHASE` staying Ready (44_scanner.md R190). -/
def answer (r : Response) (s : State) : State := { s with resp := some r }

/-- The ADVANCE in flight answered: `PHASE <- Ready` and its deadline token is gone (44_scanner.md R193, R198, R201). -/
def finish (r : Response) (s : State) : State := { s with resp := some r, phase := .ready, deadline := none }

/-- The host commands are accepted only when `PHASE` is Ready; otherwise there is no transition (44_scanner.md R190). -/
def whenReady (t s : State) : Host.Outcome State Fault Refusal :=
  if s.phase = .ready then .next t else .fault .commandInFlight

/-- `BUF <- drop(k, BUF); POS <- POS + k` (44_scanner.md R200, R201; 10_state.md R36). -/
def discard (k : Nat) (s : State) : State := { s with buf := s.buf.drop k, pos := s.pos + k }

/-- `BUF <- BUF ++ c`, the request being answered; `PHASE <- Run` (44_scanner.md R197). -/
def deliver (c : List Byte) (s : State) : State := { s with buf := s.buf ++ c, phase := .run, rdReq := none }

/-- Outcome `NEED_MORE`: `READ_REQ(deadline)` goes to the source; `PHASE <- WaitSrc` (44_scanner.md R196). -/
def requestRead (s : State) : State := { s with rdReq := some { deadline := s.deadline }, phase := .waitSrc }

/-- The read request has been answered by EOS or IOERR and stands no longer (44_scanner.md R192). -/
def closeRead (s : State) : State := { s with rdReq := none }

/-- The elements that are unspecified in the two terminal states, `KIND`, `PKT`, `PKTLEN`, `VAL`, `SVCUR`, `SVCNT`,
take free values (60_exceptions.md R226; 93 U9; log 6). -/
def releaseHeld (s : State) : State :=
  { s with
    kind := Config.freeKind s.freeCtr
    pkt := Config.freePkt s.freeCtr
    pktLen := Config.freePktLen s.freeCtr
    val := Config.freeVal s.freeCtr
    svCur := Config.freeSvCur s.freeCtr
    svCnt := Config.freeSvCnt s.freeCtr
    freeCtr := s.freeCtr + 1 }

/-- Trap entry, `TRAP(e, info)` (60_exceptions.md R226): `ST <- Failed; ERR <- e; ERRINFO <- info; PHASE <- Ready`,
answered `FAIL(e, info)`; `BUF` and `POS` keep what they hold. There is no return from it (R231): the one way on is
`rebind`. -/
def trap (e : ErrCode) (info : Nat × Nat) (s : State) : State :=
  finish (.fail e info) { releaseHeld s with st := .failed, err := e, errInfo := info }

/-- The clean end of the stream: `ST <- Exhausted; PHASE <- Ready`, answered `END`; `BUF` keeps what it holds
(44_scanner.md R198). -/
def endStream (s : State) : State := finish .endOfSequence { releaseHeld s with st := .exhausted }

/-- The packet `p` with decoded value `v` becomes the held packet and the ADVANCE is answered
`OK(tag(KIND), KIND)`; the cursor and count are written only for a SatelliteList (44_scanner.md R201). -/
def hold (p : List Byte) (v : Value) (s : State) : State :=
  finish (.ok (tag s.cfg (byteAt p 2)) (byteAt p 2))
    { s with
      pkt := p
      pktLen := BitVec.ofNat 17 p.length
      kind := byteAt p 2
      val := v
      svCnt := if tag s.cfg (byteAt p 2) = .satelliteList then byteAt p 9 else s.svCnt
      svCur := if tag s.cfg (byteAt p 2) = .satelliteList then 0 else s.svCur
      st := .holding }

/-- Reset with a fresh source (70_reset_and_hazards.md R250, R251): nothing of the instance survives. What stays is
no state of the instance: the build parameters (00_scope.md R10), what the host will do next, and the index of the
next free value (log 20). -/
def rebind (source : List SrcEvent) (rest : List HostEvent) (s : State) : State :=
  { State.reset with cfg := s.cfg, hostQ := rest, srcQ := source, freeCtr := s.freeCtr }

/-- The form of the block's memory: a byte string is its own canonical form (log 12), so what can go wrong is that
`PKT` does not hold exactly `PKTLEN` bytes while a packet is held (10_state.md R26, R37). -/
def Memory.wf (s : State) : Bool := decide (s.st ≠ .holding) || decide (s.pkt.length = s.pktLen.toNat)

end Sys2Proof.Machine
end

