-- ==== Sys2Proof/Machine/Decoders.lean ====
section
/-! DEFINITION. The Message Decoders (42_message_decoders.md) and the packets as instructions: checks, consumption and
decoding of one packet (44_scanner.md R201). -/

namespace Sys2Proof.Machine

/-- Decode Version (R153). -/
def decodeVersion (q : List Byte) : Except ErrDetail Value :=
  if byteAt q 4 = Config.verHigh ∧ byteAt q 5 = Config.verMedium ∧ byteAt q 6 = Config.verLow then
    .ok (.version { timeGPS := le32 q 0, high := byteAt q 4, medium := byteAt q 5, low := byteAt q 6 })
  else
    .error (.version, ((byteAt q 4).toNat * 65536 + (byteAt q 5).toNat * 256 + (byteAt q 6).toNat, 0))

/-- Decode Position (R154): the four floats are copied as patterns. -/
def decodePosition (q : List Byte) : Except ErrDetail Value :=
  .ok (.position
    { timeGPS := le32 q 0, longitude := le64 q 4, latitude := le64 q 12, altitudeEllipsoid := le64 q 20,
      altitudeMSL := le64 q 28, horizontalAccuracy := le32 q 36, verticalAccuracy := le32 q 40 })

/-- Decode Status (R155). -/
def decodeStatus (q : List Byte) : Except ErrDetail Value :=
  if byteAt q 7 = 0 ∨ byteAt q 7 = 1 then
    .ok (.status
      { timeGPS := le32 q 0, weekGPS := le16 q 4, fixType := byteAt q 6, hasFix := byteAt q 7, numSVs := byteAt q 8 })
  else
    .error (.field, (7, (byteAt q 7).toNat))

/-- Decode DilutionOfPrecision (R156). -/
def decodeDop (q : List Byte) : Except ErrDetail Value :=
  .ok (.dilutionOfPrecision
    { timeGPS := le32 q 0, geometric := le16 q 4, position := le16 q 6, vertical := le16 q 8, horizontal := le16 q 10 })

/-- Decode Velocity (R157). -/
def decodeVelocity (q : List Byte) : Except ErrDetail Value :=
  .ok (.velocity
    { timeGPS := le32 q 0, north := le32 q 4, east := le32 q 8, down := le32 q 12, speed := le32 q 16,
      heading := le32 q 20, speedAccuracy := le32 q 24 })

/-- Decode SatelliteList (R158): the fixed part only; `SVCNT` and `SVCUR` are written by `hold`. -/
def decodeSatlist (q : List Byte) : Except ErrDetail Value :=
  .ok (.satelliteList { timeGPS := le32 q 0, numSVs := byteAt q 4 })

/-- Decode Unknown (R159): the payload as it is. -/
def decodeUnknown (q : List Byte) : Except ErrDetail Value := .ok (.unknown q)

/-- `DECODE`, the dispatch on the kind byte (R160). -/
def decodeMessage (cfg : Params) (k : Byte) (q : List Byte) : Except ErrDetail Value :=
  match tag cfg k with
  | .version => decodeVersion q
  | .position => decodePosition q
  | .status => decodeStatus q
  | .dilutionOfPrecision => decodeDop q
  | .velocity => decodeVelocity q
  | .satelliteList => decodeSatlist q
  | .unknown _ => decodeUnknown q

/-- A packet with kind `k`, payload `q` and checksum field `ck` executed at the Run step: checksum and shape
(41_frame_locator.md R135, R136), where a fault enters the trap with `BUF` and `POS` as they are (44_scanner.md R202);
then consumption and decoding, where a decoder's error enters the trap after the packet has been consumed, and success
holds the packet (R201). The Checksum unit is left as step 4 leaves it. -/
def runPacket (k : Byte) (q : List Byte) (ck : Word16) (dec : Except ErrDetail Value) (s : State) :
    Host.Outcome State Fault Refusal :=
  if s.phase = .run then
    match packetFault s.cfg (covered k q) ck with
    | some (e, info) => .next (trap e info (setCk (ckFold (covered k q)) s))
    | none =>
      match dec with
      | .error (e, info) =>
        .next (trap e info (discard (packetBytes k q ck).length (setCk (ckFold (covered k q)) s)))
      | .ok v =>
        .next (hold (packetBytes k q ck) v
          (discard (packetBytes k q ck).length (setCk (ckFold (covered k q)) s)))
  else .fault .notAtRunStep

/-- Version (R153). -/
def execVersion (q : List Byte) (ck : Word16) (s : State) : Host.Outcome State Fault Refusal :=
  runPacket s.cfg.kindVersion q ck (decodeVersion q) s

/-- Position (R154). -/
def execPosition (q : List Byte) (ck : Word16) (s : State) : Host.Outcome State Fault Refusal :=
  runPacket s.cfg.kindPosition q ck (decodePosition q) s

/-- Status (R155). -/
def execStatus (q : List Byte) (ck : Word16) (s : State) : Host.Outcome State Fault Refusal :=
  runPacket s.cfg.kindStatus q ck (decodeStatus q) s

/-- DilutionOfPrecision (R156). -/
def execDilutionOfPrecision (q : List Byte) (ck : Word16) (s : State) : Host.Outcome State Fault Refusal :=
  runPacket s.cfg.kindDop q ck (decodeDop q) s

/-- Velocity (R157). -/
def execVelocity (q : List Byte) (ck : Word16) (s : State) : Host.Outcome State Fault Refusal :=
  runPacket s.cfg.kindVelocity q ck (decodeVelocity q) s

/-- SatelliteList (R158). -/
def execSatelliteList (q : List Byte) (ck : Word16) (s : State) : Host.Outcome State Fault Refusal :=
  runPacket s.cfg.kindSatlist q ck (decodeSatlist q) s

/-- Unknown (R159): the checksum is checked like any other kind's (41_frame_locator.md R142), the shape is not. -/
def execUnknown (k : Byte) (q : List Byte) (ck : Word16) (s : State) : Host.Outcome State Fault Refusal :=
  runPacket k q ck (decodeUnknown q) s

end Sys2Proof.Machine
end

