-- ==== Sys2Proof/Machine/Flags.lean ====
section
/-! DEFINITION. The observable status of the block (10_state.md R35: there are no condition codes) and the numeric
codes of its states, errors and responses. -/

namespace Sys2Proof.Machine

/-- The code of `ST` (10_state.md R20). -/
def stCode : ScanState → BitVec 2
  | .idle => 0
  | .holding => 1
  | .exhausted => 2
  | .failed => 3

/-- The code of `PHASE` (10_state.md R24). -/
def phaseCode : Phase → BitVec 2
  | .ready => 0
  | .run => 1
  | .waitSrc => 2

/-- The code of `ERR` (10_state.md R21, 60_exceptions.md R238). -/
def errCode : ErrCode → BitVec 3
  | .none => 0
  | .checksum => 1
  | .shape => 2
  | .version => 3
  | .field => 4
  | .io => 5

/-- The code of a response (30_encoding.md R106). -/
def responseCode : Response → BitVec 3
  | .ok _ _ => 0
  | .endOfSequence => 1
  | .fail _ _ => 2
  | .some _ => 3
  | .value _ => 4
  | .bytes _ => 5
  | .invalid => 6

/-- A SatelliteList is held (43_satellite_iterator.md R181). -/
def listHeld (s : State) : Bool := decide (s.st = .holding) && decide (tag s.cfg s.kind = .satelliteList)

/-- The end-of-sequence predicate `SVCUR = SVCNT`, as the test `SVCUR < SVCNT` of R181 has it (10_state.md R35). -/
def moreRecords (s : State) : Bool := decide (s.svCur.toNat < s.svCnt.toNat)

end Sys2Proof.Machine
end

