-- ==== Sys2Proof/Machine/Operands.lean ====
section
/-! DEFINITION. The operand forms: the PAYLOAD window, the satellite sub-record, the scaled readings and the names of
enumerated bytes. -/

namespace Sys2Proof.Machine

/-- `PAYLOAD`: the window `PKT[5 : 5 + le16(PKT, 3))` on a packet (10_state.md R37). -/
def payloadOf (p : List Byte) : List Byte := slice p Config.hdrLen (Config.hdrLen + payloadLen p)

/-- Base of sub-record `i` in its payload, `5 + 20*i` (43_satellite_iterator.md R182). -/
def subBase (i : Nat) : Nat := Config.sviHdrLen + Config.svRecLen * i

/-- `SUBREC(Q, i)` (43_satellite_iterator.md R182, 30_encoding.md R98). -/
def subRec (q : List Byte) (i : Nat) : SubRec :=
  { id := byteAt q (subBase i)
    satType := byteAt q (subBase i + 1)
    carrierPhase := le32 q (subBase i + 2)
    pseudoRangeResidual := le32 q (subBase i + 6)
    dopplerFrequency := le32 q (subBase i + 10)
    signalStrength := le16 q (subBase i + 14)
    azimuth := le16 q (subBase i + 16)
    elevation := le16 q (subBase i + 18) }

/-! ## Scaled readings: exact rationals (00_scope.md R17, 30_encoding.md R97, 42_message_decoders.md R161) -/

/-- Units of 10_state.md R31 and 30_encoding.md R98. -/
inductive PhysUnit where
  | milliseconds
  | gpsWeeks
  | count
  | degrees
  | metres
  | millimetres
  | metresPerSecond
  | dimensionless
  | cycles
  | hertz
  | decibelHertz
deriving DecidableEq, Repr

/-- A physical value, `raw * num / den` of its unit (00_scope.md R17). -/
structure Scaled where
  raw  : Int
  num  : Nat
  den  : Nat
  unit : PhysUnit
deriving DecidableEq, Repr

/-- The exact rational a scaled value is. -/
def scaledValue (x : Scaled) : Rat := (x.raw : Rat) * x.num / x.den

/-- The open binary64 rendering of a scaled value (00_scope.md R17). -/
def scaledF64 (x : Scaled) : Word64 := Config.toF64 x.raw x.num x.den

/-- An unsigned raw value. -/
def unsignedReading {w : Nat} (v : BitVec w) (den : Nat) (u : PhysUnit) : Scaled := ⟨v.toNat, 1, den, u⟩
/-- A signed raw value (00_scope.md R14, `s32`). -/
def signedReading {w : Nat} (v : BitVec w) (den : Nat) (u : PhysUnit) : Scaled := ⟨v.toInt, 1, den, u⟩

/-- `TimeGPS` in milliseconds (42_message_decoders.md R152). -/
def readTimeGPS (t : Word32) : Scaled := unsignedReading t 1 .milliseconds
/-- `WeekGPS` of Status, a GPS week number (10_state.md R31). -/
def readWeekGPS (r : StatusRec) : Scaled := unsignedReading r.weekGPS 1 .gpsWeeks
/-- `NumSVs`, a count in Status and the count of sub-records in SatelliteList (10_state.md R31). -/
def readNumSVs (n : Byte) : Scaled := unsignedReading n 1 .count
/-- Accuracies of Position (10_state.md R31). -/
def readHorizontalAccuracy (r : PositionRec) : Scaled := unsignedReading r.horizontalAccuracy 1 .millimetres
def readVerticalAccuracy (r : PositionRec) : Scaled := unsignedReading r.verticalAccuracy 1 .millimetres
/-- Dilutions of precision, `x 1/100` (42_message_decoders.md R156). -/
def readGeometric (r : DopRec) : Scaled := unsignedReading r.geometric 100 .dimensionless
def readPositionDop (r : DopRec) : Scaled := unsignedReading r.position 100 .dimensionless
def readVertical (r : DopRec) : Scaled := unsignedReading r.vertical 100 .dimensionless
def readHorizontal (r : DopRec) : Scaled := unsignedReading r.horizontal 100 .dimensionless
/-- Velocity: components signed, speed unsigned, `x 1/100` m/s; heading signed, `x 1/100000` degrees
(42_message_decoders.md R157). -/
def readNorth (r : VelocityRec) : Scaled := signedReading r.north 100 .metresPerSecond
def readEast (r : VelocityRec) : Scaled := signedReading r.east 100 .metresPerSecond
def readDown (r : VelocityRec) : Scaled := signedReading r.down 100 .metresPerSecond
def readSpeed (r : VelocityRec) : Scaled := unsignedReading r.speed 100 .metresPerSecond
def readHeading (r : VelocityRec) : Scaled := signedReading r.heading 100000 .degrees
def readSpeedAccuracy (r : VelocityRec) : Scaled := unsignedReading r.speedAccuracy 100 .metresPerSecond
/-- Sub-record fields (30_encoding.md R98). -/
def readCarrierPhase (r : SubRec) : Scaled := signedReading r.carrierPhase 100 .cycles
def readPseudoRangeResidual (r : SubRec) : Scaled := signedReading r.pseudoRangeResidual 1 .metres
def readDopplerFrequency (r : SubRec) : Scaled := signedReading r.dopplerFrequency 1000 .hertz
def readSignalStrength (r : SubRec) : Scaled := unsignedReading r.signalStrength 4 .decibelHertz
def readAzimuth (r : SubRec) : Scaled := unsignedReading r.azimuth 10 .degrees
def readElevation (r : SubRec) : Scaled := unsignedReading r.elevation 10 .degrees

/-- Fields of a binary64 pattern: sign, exponent, fraction (30_encoding.md R96; PRESUMED there, log 26). The block
transports the pattern and interprets none of them. -/
def f64Sign (v : Word64) : BitVec 1 := v.extractLsb' 63 1
def f64Exponent (v : Word64) : BitVec 11 := v.extractLsb' 52 11
def f64Fraction (v : Word64) : BitVec 52 := v.extractLsb' 0 52

/-- The significand in units of the last place: subnormals have no leading bit (PRESUMED, log 26). -/
def f64Significand (v : Word64) : Nat :=
  if f64Exponent v = 0 then (f64Fraction v).toNat else (f64Fraction v).toNat + 2 ^ 52

/-- The exact value of a binary64 pattern; infinities and NaNs have none, and both zeros are 0 (PRESUMED, log 26). -/
def f64Value (v : Word64) : Option Rat :=
  if (f64Exponent v).toNat = 2047 then none
  else some (mkRat ((if f64Sign v = 0 then 1 else -1) * (f64Significand v * 2 ^ max 1 (f64Exponent v).toNat : Nat))
    (2 ^ 1075))

/-- A float field read as a physical value: its pattern, copied without arithmetic, and its unit (10_state.md R31,
30_encoding.md R96). -/
structure FloatReading where
  bits : Word64
  unit : PhysUnit
deriving DecidableEq, Repr

/-- The exact number a float reading is of its unit, if it is one (log 26). -/
def floatValue (x : FloatReading) : Option Rat := f64Value x.bits

/-- Floats of Position: angles in degrees, altitudes in metres (10_state.md R31, 42_message_decoders.md R154). -/
def readLongitude (r : PositionRec) : FloatReading := ⟨r.longitude, .degrees⟩
def readLatitude (r : PositionRec) : FloatReading := ⟨r.latitude, .degrees⟩
def readAltitudeEllipsoid (r : PositionRec) : FloatReading := ⟨r.altitudeEllipsoid, .metres⟩
def readAltitudeMSL (r : PositionRec) : FloatReading := ⟨r.altitudeMSL, .metres⟩

/-! ## Names of enumerated bytes (30_encoding.md R99) -/

/-- Names of `FixType` bytes. -/
inductive FixName where
  | noFix
  | single
  | float
  | rtk
deriving DecidableEq, Repr

/-- Names of satellite `Type` bytes. -/
inductive SatName where
  | gps
  | glonass
  | galileo
  | qzss
  | beiDou
  | leo
  | sbas
deriving DecidableEq, Repr

/-- The name of a `FixType` byte; a byte above 3 has none (R99; the numbering is PRESUMED there, log 19). -/
def fixName (b : Byte) : Option FixName :=
  match b.toNat with
  | 0 => some .noFix
  | 1 => some .single
  | 2 => some .float
  | 3 => some .rtk
  | _ => none

/-- The name of a satellite `Type` byte; a byte above 6 has none (R99). -/
def satName (b : Byte) : Option SatName :=
  match b.toNat with
  | 0 => some .gps
  | 1 => some .glonass
  | 2 => some .galileo
  | 3 => some .qzss
  | 4 => some .beiDou
  | 5 => some .leo
  | 6 => some .sbas
  | _ => none

end Sys2Proof.Machine
end

