-- ==== Sys2Proof/Machine/Scanner.lean ====
section
/-! DEFINITION. The host commands (44_scanner.md R191, R194, R204 to R206; 43_satellite_iterator.md R181). -/

namespace Sys2Proof.Machine

/-- The state in which an ADVANCE is in flight: `PHASE <- Run`, no response yet, the deadline kept (R193, R194). -/
def startAdvance (d : Option Token) (s : State) : State := { s with phase := .run, deadline := d, resp := none }

/-- What the acceptance of ADVANCE does in each value of `ST` (R194). -/
def acceptAdvance (d : Option Token) (s : State) : State :=
  match s.st with
  | .failed => answer (.fail s.err s.errInfo) s
  | .exhausted => answer .endOfSequence s
  | .idle => startAdvance d s
  | .holding => startAdvance d s

/-- ADVANCE (R194). It is accepted whether or not a source is attached (DESIGN CHOICE, log 27). -/
def execAdvance (d : Option Token) (s : State) : Host.Outcome State Fault Refusal :=
  whenReady (acceptAdvance d s) s

/-- CURRENT_KIND (R204). -/
def execCurrentKind (s : State) : Host.Outcome State Fault Refusal :=
  whenReady (if s.st = .holding then answer (.ok (tag s.cfg s.kind) s.kind) s else answer .invalid s) s

/-- RAW_PACKET (R206): `PKT[0:PKTLEN)`. -/
def execRawPacket (s : State) : Host.Outcome State Fault Refusal :=
  whenReady (if s.st = .holding then answer (.bytes (s.pkt.take s.pktLen.toNat)) s else answer .invalid s) s

/-- What NEXT_SATELLITE does when accepted (43_satellite_iterator.md R181). -/
def acceptNext (s : State) : State :=
  if listHeld s && moreRecords s then
    answer (.some (subRec (payloadOf s.pkt) s.svCur.toNat)) { s with svCur := s.svCur + 1 }
  else answer .endOfSequence s

/-- NEXT_SATELLITE (43_satellite_iterator.md R181, R184). -/
def execNextSatellite (s : State) : Host.Outcome State Fault Refusal := whenReady (acceptNext s) s

/-- What a typed accessor answers: `VAL` in Holding when the current tag is `x`'s, which `mine` decides, and `INVALID`
elsewhere (R205). -/
def accessor (mine : Bool) (s : State) : Host.Outcome State Fault Refusal :=
  whenReady (if s.st = .holding ∧ mine = true then answer (.value s.val) s else answer .invalid s) s

/-- GET_VERSION (R205). -/
def execGetVersion (s : State) : Host.Outcome State Fault Refusal :=
  accessor (decide (tag s.cfg s.kind = .version)) s

/-- GET_POSITION (R205). -/
def execGetPosition (s : State) : Host.Outcome State Fault Refusal :=
  accessor (decide (tag s.cfg s.kind = .position)) s

/-- GET_STATUS (R205). -/
def execGetStatus (s : State) : Host.Outcome State Fault Refusal :=
  accessor (decide (tag s.cfg s.kind = .status)) s

/-- GET_DOP (R205). -/
def execGetDop (s : State) : Host.Outcome State Fault Refusal :=
  accessor (decide (tag s.cfg s.kind = .dilutionOfPrecision)) s

/-- GET_VELOCITY (R205). -/
def execGetVelocity (s : State) : Host.Outcome State Fault Refusal :=
  accessor (decide (tag s.cfg s.kind = .velocity)) s

/-- GET_SATLIST (R205): `TimeGPS` and `NumSVs` only; the cursor does not move. -/
def execGetSatlist (s : State) : Host.Outcome State Fault Refusal :=
  accessor (decide (tag s.cfg s.kind = .satelliteList)) s

/-- GET_UNKNOWN (R205): the tag is `Unknown(k)` for any `k`. -/
def execGetUnknown (s : State) : Host.Outcome State Fault Refusal :=
  accessor (!tagKnown (tag s.cfg s.kind)) s

end Sys2Proof.Machine
end

