-- ==== Sys2Proof/Machine/Source.lean ====
section
/-! DEFINITION. The source events (44_scanner.md R192, R197 to R199). -/

namespace Sys2Proof.Machine

/-- A source answer is accepted only when a read request is outstanding (44_scanner.md R192, 60_exceptions.md R229). -/
def whenAsked (t s : State) : Host.Outcome State Fault Refusal :=
  if s.phase = .waitSrc then .next t else .fault .unaskedAnswer

/-- DATA(c) (R197). A delivery longer than `CHUNK_MAX` has no transition (R192); an empty one is the no-op re-request
that 92 D32 allows (log 11). -/
def execData (c : List Byte) (s : State) : Host.Outcome State Fault Refusal :=
  if s.cfg.chunkFits c then whenAsked (deliver c s) s else .fault .deliveryTooLong

/-- EOS (R198): the clean end, whatever `BUF` holds. -/
def execEos (s : State) : Host.Outcome State Fault Refusal := whenAsked (endStream (closeRead s)) s

/-- IOERR (R199): trap entry with `E_IO`, whose `ERRINFO` is a free value (60_exceptions.md R225; log 6). -/
def execIoerr (s : State) : Host.Outcome State Fault Refusal :=
  whenAsked (trap .io (Config.freeErrInfo s.freeCtr) (closeRead s)) s

/-- The instruction a source answer is. -/
def srcInstr : SrcEvent → Instr
  | .data c => .data c
  | .eos => .eos
  | .ioerr => .ioerr

end Sys2Proof.Machine
end

