-- ==== Sys2Proof/Machine/Dispatch.lean ====
section
/-! DEFINITION. One arm per constructor of Instr. -/

namespace Sys2Proof.Machine

def exec (i : Instr) (s : State) : Host.Outcome State Fault Refusal :=
  match i with
  -- packets (42_message_decoders.md)
  | .version q ck => Sys2Proof.Machine.execVersion q ck s
  | .position q ck => Sys2Proof.Machine.execPosition q ck s
  | .status q ck => Sys2Proof.Machine.execStatus q ck s
  | .dilutionOfPrecision q ck => Sys2Proof.Machine.execDilutionOfPrecision q ck s
  | .velocity q ck => Sys2Proof.Machine.execVelocity q ck s
  | .satelliteList q ck => Sys2Proof.Machine.execSatelliteList q ck s
  | .unknown k q ck => Sys2Proof.Machine.execUnknown k q ck s
  -- host commands (44_scanner.md, 43_satellite_iterator.md)
  | .advance d => Sys2Proof.Machine.execAdvance d s
  | .currentKind => Sys2Proof.Machine.execCurrentKind s
  | .nextSatellite => Sys2Proof.Machine.execNextSatellite s
  | .rawPacket => Sys2Proof.Machine.execRawPacket s
  | .getVersion => Sys2Proof.Machine.execGetVersion s
  | .getPosition => Sys2Proof.Machine.execGetPosition s
  | .getStatus => Sys2Proof.Machine.execGetStatus s
  | .getDop => Sys2Proof.Machine.execGetDop s
  | .getVelocity => Sys2Proof.Machine.execGetVelocity s
  | .getSatlist => Sys2Proof.Machine.execGetSatlist s
  | .getUnknown => Sys2Proof.Machine.execGetUnknown s
  -- source events (44_scanner.md)
  | .data c => Sys2Proof.Machine.execData c s
  | .eos => Sys2Proof.Machine.execEos s
  | .ioerr => Sys2Proof.Machine.execIoerr s
  -- internal operations (40_checksum.md, 41_frame_locator.md)
  | .ckClear => Sys2Proof.Machine.execCkClear s
  | .ckUpdate x => Sys2Proof.Machine.execCkUpdate x s
  | .ckResult => Sys2Proof.Machine.execCkResult s
  | .locate => Sys2Proof.Machine.execLocate s

end Sys2Proof.Machine
end

