-- ==== Sys2Proof/Machine/Fetch.lean ====
section
/-! DEFINITION. What moves next: the agent that `PHASE` names, and the instruction it brings (10_state.md R24;
44_scanner.md R190, R192, R195; log 3, log 15). -/

namespace Sys2Proof.Machine

/-- What a step finds: an instruction and the state it runs on, or a move that is no instruction (the Scanner's act on
`NEED_MORE`, `SKIP` or `FATAL`, a reset, waiting, or a host code that is no command). -/
inductive Fetched where
  | instr (i : Instr) (s : State)
  | settled (o : Host.Outcome State Fault Refusal)
deriving Repr

/-- The Run step (44_scanner.md R195): LOCATE on the whole present `BUF`, and one act by its outcome: `NEED_MORE`
R196, `SKIP` R200, `FATAL` R202; `EMIT` gives the packet to its decoder, which is the packet's instruction (R201). -/
def fetchRun (s : State) : Fetched :=
  match locator s.cfg s.buf with
  | .needMore => .settled (.next (requestRead (locateBuf s)))
  | .skip k => .settled (.next (discard k (locateBuf s)))
  | .fatal e info => .settled (.next (trap e info (locateBuf s)))
  | .emit p _ => .instr (packetInstr s.cfg p) (locateBuf s)

/-- The source's move: its next answer, or none yet, while all state is kept (44_scanner.md R209, 60_exceptions.md
R237). With no source attached, which 70_reset_and_hazards.md R253 forbids the host at an ADVANCE, the wait is the same:
the model's choice (DESIGN CHOICE, log 27). -/
def fetchSource (s : State) : Fetched :=
  match s.srcQ with
  | [] => .settled (.next s)
  | e :: rest => .instr (srcInstr e) { s with srcQ := rest }

/-- The move of block or source by `PHASE`; in Ready neither has one, and all state is kept (10_state.md R24). -/
def fetchInner (s : State) : Fetched :=
  match s.phase with
  | .ready => .settled (.next s)
  | .run => fetchRun s
  | .waitSrc => fetchSource s

/-- The host's word taken at Ready (30_encoding.md R105). -/
def fetchCommand (w : HostWord) (s : State) : Fetched :=
  match decodeHost w with
  | .ok i => .instr i s
  | .error _ => .settled (.fault .notACommand)

/-- What moves next. A reset may come in any phase (70_reset_and_hazards.md R250); a command waits until `PHASE` is
Ready (44_scanner.md R190); a pause lets one step of the others pass. -/
def fetch (s : State) : Fetched :=
  match s.hostQ with
  | [] => fetchInner s
  | .reset src :: rest => .settled (.next (rebind src rest s))
  | .pause :: rest => fetchInner { s with hostQ := rest }
  | .command w :: rest => if s.phase = .ready then fetchCommand w { s with hostQ := rest } else fetchInner s

/-- The state in which the next step runs exactly the instruction of an encoded word: a command is the host's next
event with the block Ready; a packet is what `BUF` holds with the block at the Run step and the host doing nothing. -/
def placeWord (s : State) : Encoded → State
  | .host w => { s with hostQ := .command w :: s.hostQ, phase := .ready }
  | .stream b => { s with buf := b, phase := .run, hostQ := [] }

/-- `placeWord` for a word numbered as spec/opcode_table.json numbers it. -/
def placeTableWord (s : State) (nbits w : Nat) : State :=
  match tableWord nbits w with
  | none => s
  | some e => placeWord s e

end Sys2Proof.Machine
end

