-- ==== Sys2Proof/Machine/Step.lean ====
section
/-! DEFINITION. One step: what moves next is fetched, and an instruction is executed (00_scope.md R12). -/

namespace Sys2Proof.Machine

def step (s : State) : Host.Outcome State Fault Refusal :=
  match fetch s with
  | .instr i t => exec i t
  | .settled o => o

/-- `s` with a word of spec/opcode_table.json stored where the next step takes its instruction (log 4, log 14). -/
def State.withFetchWord (s : State) (nbits w : Nat) : State := placeTableWord s nbits w

end Sys2Proof.Machine
end

