-- ==== Sys2Proof/Machine/Advance.lean ====
section
/-! DEFINITION. ADVANCE as one step (44_scanner.md R203): the whole command as one function of the state and of the
source's answers. The machine takes the small steps of `Machine.step`; R203 says that the two forms agree. -/

namespace Sys2Proof.Machine

/-- LOCATE, and once more where the first outcome is a `SKIP` (R208): what the loop of R203 does between two reads. -/
def settleRun (s : State) : State × LocOutcome :=
  match locator s.cfg s.buf with
  | .skip k => (locateBuf (discard k (locateBuf s)), locator s.cfg (s.buf.drop k))
  | o => (locateBuf s, o)

/-- `EMIT(P, T)` in the loop of R203: consume, `DECODE(P)`, and hold or trap. -/
def emitPacket (p : List Byte) (t : Nat) (s : State) : State :=
  match decodeMessage s.cfg (byteAt p 2) (payloadOf p) with
  | .error (e, info) => trap e info (discard t s)
  | .ok v => hold p v (discard t s)

/-- The loop of R203 over the source's answers. With no answer left the ADVANCE stays in flight, its read request
outstanding (R209); with no source attached it is the same (DESIGN CHOICE, log 27). -/
def advanceLoop (s : State) : List SrcEvent → State
  | [] =>
    match settleRun s with
    | (t, .emit p n) => emitPacket p n { t with srcQ := [] }
    | (t, .fatal e info) => trap e info { t with srcQ := [] }
    | (t, _) => requestRead { t with srcQ := [] }
  | a :: rest =>
    match settleRun s with
    | (t, .emit p n) => emitPacket p n { t with srcQ := a :: rest }
    | (t, .fatal e info) => trap e info { t with srcQ := a :: rest }
    | (t, _) =>
      match a with
      | .data c => advanceLoop (deliver c (requestRead t)) rest
      | .eos => endStream (closeRead (requestRead { t with srcQ := rest }))
      | .ioerr => trap .io (Config.freeErrInfo t.freeCtr) (closeRead (requestRead { t with srcQ := rest }))

/-- `ADVANCE(deadline)` of R203. -/
def advanceWhole (d : Option Token) (s : State) : State :=
  match s.st with
  | .failed => answer (.fail s.err s.errInfo) s
  | .exhausted => answer .endOfSequence s
  | .idle => advanceLoop (startAdvance d s) s.srcQ
  | .holding => advanceLoop (startAdvance d s) s.srcQ

end Sys2Proof.Machine
end

