-- ==== Sys2Proof/Safety.lean ====
section
/-! DEFINITION. What counts as a safe run, in the terms the statements use: the invariant of the block, the duties of
host and source, runs of instructions. -/

namespace Sys2Proof

open Sys2Proof.Machine

/-- The invariant of Holding (10_state.md R27), clause by clause. -/
structure HoldingInv (s : State) : Prop where
  sync0 : byteAt s.pkt 0 = Config.sync0
  sync1 : byteAt s.pkt 1 = Config.sync1
  kind : s.kind = byteAt s.pkt 2
  pktLen : s.pktLen.toNat = 7 + payloadLen s.pkt
  size : s.pkt.length = s.pktLen.toNat
  checksum : Machine.checksum (slice s.pkt 2 (s.pktLen.toNat - 2)) = le16 s.pkt (s.pktLen.toNat - 2)
  shape : ∀ x, expectedLen s.cfg s.kind (payloadOf s.pkt) = some x → payloadLen s.pkt = x
  value : decodeMessage s.cfg s.kind (payloadOf s.pkt) = .ok s.val
  version : tag s.cfg s.kind = .version → ∃ r, s.val = .version r ∧ r.high = 0 ∧ r.medium = 1 ∧ r.low = 0
  status : tag s.cfg s.kind = .status → ∃ r, s.val = .status r ∧ (r.hasFix = 0 ∨ r.hasFix = 1)
  cursor : tag s.cfg s.kind = .satelliteList → s.svCnt = byteAt s.pkt 9 ∧ s.svCur.toNat ≤ s.svCnt.toNat

/-- What `PHASE` says of the two ports: an ADVANCE is in flight only from Idle or Holding and has no response yet
(44_scanner.md R190, R194); a read request is outstanding in WaitSrc alone, with the deadline of that ADVANCE (R192,
R193, R196); it was sent because LOCATE had answered `NEED_MORE` (R198). -/
structure PortInv (s : State) : Prop where
  inFlight : s.phase ≠ .ready → (s.st = .idle ∨ s.st = .holding) ∧ s.resp = none
  atRest : s.phase = .ready → s.deadline = none
  asking : s.phase = .waitSrc → s.rdReq = some { deadline := s.deadline } ∧ locator s.cfg s.buf = .needMore
  notAsking : s.phase ≠ .waitSrc → s.rdReq = none

/-- Occupancy of `BUF` (20_memory.md R66): at most 65541 bytes when a read is requested, at most `BUF_CAP` always. -/
structure BufInv (s : State) : Prop where
  whenAsked : s.phase = .waitSrc → s.buf.length ≤ Config.maxPacket - 1
  always : ∀ m, s.cfg.chunkMax = some m → s.buf.length ≤ Config.maxPacket - 1 + m

/-- The invariant every step keeps. -/
structure Inv (s : State) : Prop where
  params : s.cfg.wf = true
  holding : s.st = .holding → HoldingInv s
  ports : PortInv s
  buffer : BufInv s

/-- The host's duties: it issues only commands, and every source it attaches with a reset keeps its bound
(70_reset_and_hazards.md R253, R263). The duty to attach one before the first ADVANCE is not asked here (log 27). -/
def HostDuty (s : State) : Prop :=
  (∀ c, HostEvent.command (.code c) ∈ s.hostQ → ∃ i, decodeCode c = .ok i) ∧
  (∀ src, HostEvent.reset src ∈ s.hostQ → ∀ c, SrcEvent.data c ∈ src → s.cfg.chunkFits c = true)

/-- The source's duty to deliver at most `CHUNK_MAX` bytes at a time (R263). -/
def SourceDuty (s : State) : Prop := ∀ c, SrcEvent.data c ∈ s.srcQ → s.cfg.chunkFits c = true

/-- The host neither resets nor pauses as its next act, so an ADVANCE in flight goes on (44_scanner.md R190). -/
def HostWaits (q : List HostEvent) : Prop := ∀ e rest, q = e :: rest → ∃ w, e = .command w

/-- The two-byte marker stands whole at offset `i` of `b` (41_frame_locator.md R132). -/
def MarkerAt (b : List Byte) (i : Nat) : Prop :=
  i + 1 < b.length ∧ byteAt b i = Config.sync0 ∧ byteAt b (i + 1) = Config.sync1

/-- `v` is one whole packet that passes every check of LOCATE (41_frame_locator.md R140, R141). -/
def ValidPacket (cfg : Params) (v : List Byte) : Prop := locator cfg v = .emit v v.length

/-- `t` is what trap entry with `e` and `info` makes of `s`: the elements R226 names are written, those it leaves
unspecified are free, everything else is as it was (60_exceptions.md R226). -/
def Trapped (e : ErrCode) (info : Nat × Nat) (s t : State) : Prop :=
  t = { s with
        st := .failed, err := e, errInfo := info, phase := .ready, resp := some (.fail e info), deadline := none,
        kind := t.kind, pkt := t.pkt, pktLen := t.pktLen, val := t.val, svCur := t.svCur, svCnt := t.svCnt,
        freeCtr := t.freeCtr }

/-- `t` is what the clean end of the stream makes of `s` (44_scanner.md R198; 93 U9). -/
def Ended (s t : State) : Prop :=
  t = { s with
        st := .exhausted, phase := .ready, resp := some .endOfSequence, deadline := none,
        kind := t.kind, pkt := t.pkt, pktLen := t.pktLen, val := t.val, svCur := t.svCur, svCnt := t.svCnt,
        freeCtr := t.freeCtr }

/-- The Checksum unit has run over the range a packet's checksum covers (41_frame_locator.md R135). -/
def summed (k : Byte) (q : List Byte) (s : State) : State :=
  { s with ckA := (ckFold (covered k q)).1, ckB := (ckFold (covered k q)).2 }

/-- A packet's `7 + N` bytes have left the front of `BUF` (44_scanner.md R201). -/
def eaten (q : List Byte) (s : State) : State :=
  { s with buf := s.buf.drop (7 + q.length), pos := s.pos + (7 + q.length) }

/-- The kind byte, payload and checksum field of a packet, for the seven packet instructions. -/
def packetParts (cfg : Params) : Instr → Option (Byte × List Byte × Word16)
  | .version q ck => some (cfg.kindVersion, q, ck)
  | .position q ck => some (cfg.kindPosition, q, ck)
  | .status q ck => some (cfg.kindStatus, q, ck)
  | .dilutionOfPrecision q ck => some (cfg.kindDop, q, ck)
  | .velocity q ck => some (cfg.kindVelocity, q, ck)
  | .satelliteList q ck => some (cfg.kindSatlist, q, ck)
  | .unknown k q ck => some (k, q, ck)
  | .advance _ | .currentKind | .nextSatellite | .rawPacket | .getVersion | .getPosition | .getStatus | .getDop
  | .getVelocity | .getSatlist | .getUnknown | .data _ | .eos | .ioerr | .ckClear | .ckUpdate _ | .ckResult
  | .locate => none

/-- The eleven host commands (44_scanner.md R191). -/
def isCommand : Instr → Bool
  | .advance _ | .currentKind | .nextSatellite | .rawPacket | .getVersion | .getPosition | .getStatus | .getDop
  | .getVelocity | .getSatlist | .getUnknown => true
  | .version _ _ | .position _ _ | .status _ _ | .dilutionOfPrecision _ _ | .velocity _ _ | .satelliteList _ _
  | .unknown _ _ _ | .data _ | .eos | .ioerr | .ckClear | .ckUpdate _ | .ckResult | .locate => false

/-- The nine commands that only answer: all but ADVANCE and NEXT_SATELLITE (20_memory.md R64). -/
def isPlainRead : Instr → Bool
  | .currentKind | .rawPacket | .getVersion | .getPosition | .getStatus | .getDop | .getVelocity | .getSatlist
  | .getUnknown => true
  | .advance _ | .nextSatellite | .version _ _ | .position _ _ | .status _ _ | .dilutionOfPrecision _ _
  | .velocity _ _ | .satelliteList _ _ | .unknown _ _ _ | .data _ | .eos | .ioerr | .ckClear | .ckUpdate _
  | .ckResult | .locate => false

/-- Instructions executed one after the other, stopping at the first that gives no next state. -/
def execAll : List Instr → State → Host.Outcome State Fault Refusal
  | [], s => .next s
  | i :: rest, s =>
    match exec i s with
    | .next t => execAll rest t
    | .fault r => .fault r
    | .refused r => .refused r

/-- The responses to a host command repeated `n` times, oldest first, with the state it leaves. -/
def askTimes (i : Instr) : Nat → State → Option (List (Option Response) × State)
  | 0, s => some ([], s)
  | n + 1, s =>
    match exec i s with
    | .next t => (askTimes i n t).map fun r => (t.resp :: r.1, r.2)
    | .fault _ => none
    | .refused _ => none

end Sys2Proof
end

