-- ==== Sys2Proof/Certificates/Slice0/Obligations.lean ====
section
/-! DEFINITION. The statements for the provers. Each docstring cites the rule of spec/ it formalises; where the spec
marks a cited rule as its own choice [decision D<n>] or inference [derived], the docstring says so, and the statement's
basis in OBLIGATIONS.json is 'derived'. -/

open Sys2Proof Sys2Proof.Machine

/-! ## Encodings -/

/-- Encoding an instruction and decoding the result gives it back, every operand at every value (30_encoding.md R90,
R94, R105), for every assignment of the kind codes (00_scope.md R9). The spec marks as its own choice or inference:
R105 [decision D5], R9 [decision D2]. -/
def Obligations.DecodeOfEncode : Prop :=
  ∀ (cfg : Params) (i : Instr) (e : Encoded),
    cfg.wf = true → i.wf cfg = true → encode cfg i = some e → decode cfg e = .ok i

/-- A packet at the head of a longer byte string is read whole, and the bytes after it are left (R91, R103). -/
def Obligations.PacketReadBeforeAnyTail : Prop :=
  ∀ (cfg : Params) (i : Instr) (p rest : List Byte),
    cfg.wf = true → i.wf cfg = true → encode cfg i = some (.stream p) → decodePacket cfg (p ++ rest) = .ok (i, rest)

/-- Every word has at most one meaning: what decodes to an instruction is that instruction's encoding, and a packet
that is read is well formed (R90, R94, R105). The spec marks as its own choice or inference: R105 [decision D5]. -/
def Obligations.EncodeOfDecode : Prop :=
  ∀ cfg : Params,
    (∀ (b : List Byte) (i : Instr) (rest : List Byte), decodePacket cfg b = .ok (i, rest) →
      i.wf cfg = true ∧ ∃ p, encode cfg i = some (.stream p) ∧ b = p ++ rest) ∧
    (∀ (w : HostWord) (i : Instr), decodeHost w = .ok i → encode cfg i = some (.host w))

/-- Words written out from the spec's encodings decode to what they stand for: two packets (42_message_decoders.md
R153, R159), two commands and a code that is none (30_encoding.md R105). That 0x01 is Version and 0x7F is Unknown
rests on the default kind codes, which are the model's choice at reset (log 1, PRESUMED; 00_scope.md R9). The spec
marks as its own choice or inference: R105 [decision D5], R9 [decision D2]. -/
def Obligations.SampleWordsDecode : Prop :=
  decode Params.default (.stream [0x45, 0x52, 0x01, 0x07, 0x00, 0xE8, 0x03, 0x00, 0x00, 0x00, 0x01, 0x00, 0xF4, 0xB5])
    = .ok (.version [0xE8, 0x03, 0x00, 0x00, 0x00, 0x01, 0x00] 0xB5F4) ∧
  decode Params.default (.stream [0x45, 0x52, 0x7F, 0x03, 0x00, 0xDE, 0xAD, 0xBE, 0xCB, 0xBB])
    = .ok (.unknown 0x7F [0xDE, 0xAD, 0xBE] 0xBBCB) ∧
  decode Params.default (.host (.code 0x0)) = .ok (.advance none) ∧
  decode Params.default (.host (.code 0xE)) = .ok .getUnknown ∧
  decode Params.default (.host (.code 0x4)) = .error .notACommand

/-- Little-endian assembly of integers from bytes, and the two's-complement reading (00_scope.md R14, 20_memory.md
R60, R61). The spec marks as its own choice or inference: R61 [derived]. -/
def Obligations.LittleEndianAssembly : Prop :=
  ∀ (b : List Byte) (o : Nat),
    (le16 b o).toNat = (byteAt b o).toNat + 256 * (byteAt b (o + 1)).toNat ∧
    (byteAt b o).toNat = (le16 b o).toNat % 256 ∧ (byteAt b (o + 1)).toNat = (le16 b o).toNat / 256 ∧
    (le32 b o).toNat = (byteAt b o).toNat + 2 ^ 8 * (byteAt b (o + 1)).toNat + 2 ^ 16 * (byteAt b (o + 2)).toNat +
      2 ^ 24 * (byteAt b (o + 3)).toNat ∧
    (le64 b o).toNat = ((List.range 8).map fun k => 2 ^ (8 * k) * (byteAt b (o + k)).toNat).sum ∧
    i32le b o = (if (le32 b o).toNat < 2 ^ 31 then ((le32 b o).toNat : Int) else ((le32 b o).toNat : Int) - 2 ^ 32)

/-- `tag` picks the kind whose code the byte is, and is `Unknown(k)` for exactly the other 250 byte values (R94), for
every pairwise distinct assignment (00_scope.md R9). -/
def Obligations.KindByteClassification : Prop :=
  ∀ cfg : Params, cfg.wf = true →
    (∀ k, tag cfg k = .version ↔ k = cfg.kindVersion) ∧
    (∀ k, tag cfg k = .position ↔ k = cfg.kindPosition) ∧
    (∀ k, tag cfg k = .status ↔ k = cfg.kindStatus) ∧
    (∀ k, tag cfg k = .dilutionOfPrecision ↔ k = cfg.kindDop) ∧
    (∀ k, tag cfg k = .velocity ↔ k = cfg.kindVelocity) ∧
    (∀ k, tag cfg k = .satelliteList ↔ k = cfg.kindSatlist) ∧
    (∀ k k', tag cfg k = .unknown k' ↔ k' = k ∧ k ∉ cfg.kinds) ∧
    (((List.range 256).map (BitVec.ofNat 8)).filter fun k => !tagKnown (tag cfg k)).length = 250

/-- `expected_len` (42_message_decoders.md R150). The spec marks as its own choice or inference: R150 [decision D30].
-/
def Obligations.ExpectedPayloadLengths : Prop :=
  ∀ (cfg : Params) (q : List Byte), cfg.wf = true →
    expectedLen cfg cfg.kindVersion q = some 7 ∧
    expectedLen cfg cfg.kindPosition q = some 44 ∧
    expectedLen cfg cfg.kindStatus q = some 9 ∧
    expectedLen cfg cfg.kindDop q = some 12 ∧
    expectedLen cfg cfg.kindVelocity q = some 28 ∧
    (q.length < 5 → expectedLen cfg cfg.kindSatlist q = some 5) ∧
    (5 ≤ q.length → expectedLen cfg cfg.kindSatlist q = some (5 + 20 * (byteAt q 4).toNat)) ∧
    (∀ k, k ∉ cfg.kinds → expectedLen cfg k q = none)

/-- The document's three scaling examples, exactly and as binary64 (30_encoding.md R97; 95 S9, S10, S11). The spec
marks as its own choice or inference: R97 [decision D14], R17 [decision D14], R161 [decision D14]. -/
def Obligations.ScalingExamples : Prop :=
  ∀ (d : DopRec) (v : VelocityRec) (r : SubRec),
    (d.geometric = 123 → scaledValue (readGeometric d) = 123 / 100 ∧ scaledF64 (readGeometric d) = 0x3FF3AE147AE147AE) ∧
    (v.heading = 1000000 → scaledValue (readHeading v) = 10 ∧ scaledF64 (readHeading v) = 0x4024000000000000) ∧
    (r.signalStrength = 160 → scaledValue (readSignalStrength r) = 40 ∧
      scaledF64 (readSignalStrength r) = 0x4044000000000000)

/-! ## The Checksum unit -/

/-- CK_CLEAR (40_checksum.md R122). The spec marks as its own choice or inference: R122 [derived]. -/
def Obligations.CkClearClearsBoth : Prop :=
  ∀ s : State, exec .ckClear s = .next { s with ckA := 0, ckB := 0 }

/-- CK_UPDATE(x): both additions modulo 256, the second with the new `CKA` (40_checksum.md R121). -/
def Obligations.CkUpdateAddsTwice : Prop :=
  ∀ (x : Byte) (s : State), ∃ t, exec (.ckUpdate x) s = .next t ∧
    t = { s with ckA := t.ckA, ckB := t.ckB } ∧
    t.ckA.toNat = (s.ckA.toNat + x.toNat) % 256 ∧ t.ckB.toNat = (s.ckB.toNat + t.ckA.toNat) % 256

/-- CK_RESULT returns `CKB*256 + CKA` and changes neither register (40_checksum.md R123). -/
def Obligations.CkResultReturnsValue : Prop :=
  ∀ s : State, ∃ v : Word16,
    exec .ckResult s = .next { s with unitOut := some (.checksum v) } ∧ v.toNat = s.ckB.toNat * 256 + s.ckA.toNat

/-- `CHECKSUM(X)` is what the unit's operations compute: clear, one update per byte in order, result; and the checksum
of no bytes is 0 (40_checksum.md R120). -/
def Obligations.UnitComputesChecksum : Prop :=
  (∀ (x : List Byte) (s : State),
    execAll (Instr.ckClear :: (x.map Instr.ckUpdate ++ [Instr.ckResult])) s =
      .next { s with ckA := (ckFold x).1, ckB := (ckFold x).2, unitOut := some (.checksum (checksum x)) }) ∧
  checksum [] = 0

/-- The closed form of the checksum and the exact laws (a) to (d) (40_checksum.md R126). The spec marks as its own
choice or inference: R126 [derived]. -/
def Obligations.ChecksumLaws : Prop :=
  (∀ x : List Byte,
    (checksum x).toNat % 256 = (x.map BitVec.toNat).sum % 256 ∧
    (checksum x).toNat / 256 =
      ((List.range x.length).map fun i => (x.length - i) * (byteAt x i).toNat).sum % 256) ∧
  (∀ (x : List Byte) (j : Nat) (b : Byte), j < x.length → byteAt x j ≠ b →
    (checksum (x.set j b)).toNat % 256 ≠ (checksum x).toNat % 256) ∧
  (∀ (x z : List Byte) (u v : Byte), u ≠ v →
    (checksum (x ++ u :: v :: z)).toNat % 256 = (checksum (x ++ v :: u :: z)).toNat % 256 ∧
    checksum (x ++ u :: v :: z) ≠ checksum (x ++ v :: u :: z)) ∧
  (∀ x y : List Byte, checksum (x ++ y) = ckValue (y.foldl ckAdd (ckFold x))) ∧
  (∀ x : List Byte, (ckFold (x ++ [0])).1 = (ckFold x).1 ∧ (ckFold (x ++ [0])).2 = (ckFold x).2 + (ckFold x).1 ∧
    (checksum (x ++ [0]) ≠ checksum x ↔ (ckFold x).1 ≠ 0))

/-! ## The Frame Locator -/

/-- LOCATE returns its outcome and writes nothing else but the scratch accumulators, which hold the checksum of `P[2 :
5+N)` where step 4 is reached (41_frame_locator.md R130, R135). -/
def Obligations.LocateReturnsOutcome : Prop :=
  ∀ s : State, ∃ t, exec .locate s = .next t ∧
    t = { s with ckA := t.ckA, ckB := t.ckB, unitOut := some (.located (locator s.cfg s.buf)) } ∧
    (5 ≤ s.buf.length → MarkerAt s.buf 0 → totalLen s.buf ≤ s.buf.length →
      ckValue (t.ckA, t.ckB) = checksum (slice s.buf 2 (5 + payloadLen s.buf))) ∧
    (¬ (5 ≤ s.buf.length ∧ MarkerAt s.buf 0 ∧ totalLen s.buf ≤ s.buf.length) → t.ckA = s.ckA ∧ t.ckB = s.ckB)

/-- Steps 1 and 2: fewer than 5 bytes ask for more whatever they are; an unaligned buffer is skipped up to the least
whole marker, or all of it where there is none (41_frame_locator.md R131, R132, R133). The spec marks as its own
choice or inference: R132 [decision D33]. -/
def Obligations.LocateSkipsGarbage : Prop :=
  ∀ (cfg : Params) (b : List Byte),
    (b.length < 5 → locator cfg b = .needMore) ∧
    (∀ i, 5 ≤ b.length → 1 ≤ i → MarkerAt b i → (∀ j, j < i → ¬ MarkerAt b j) → locator cfg b = .skip i) ∧
    (5 ≤ b.length → (∀ i, ¬ MarkerAt b i) → locator cfg b = .skip b.length)

/-- Steps 3 to 6 on an aligned buffer of at least 5 bytes: completeness, then checksum, then shape, then the packet
(41_frame_locator.md R134, R135, R136, R137, in the order of R138 and 60_exceptions.md R228). -/
def Obligations.LocateChecksInOrder : Prop :=
  ∀ (cfg : Params) (b : List Byte), 5 ≤ b.length → MarkerAt b 0 →
    let n := (le16 b 3).toNat
    let c := checksum (slice b 2 (5 + n))
    let r := le16 b (5 + n)
    (b.length < 5 + n + 2 → locator cfg b = .needMore) ∧
    (5 + n + 2 ≤ b.length → c ≠ r → locator cfg b = .fatal .checksum (c.toNat, r.toNat)) ∧
    (5 + n + 2 ≤ b.length → c = r → ∀ x, expectedLen cfg (byteAt b 2) (slice b 5 (5 + n)) = some x → n ≠ x →
      locator cfg b = .fatal .shape (x, n)) ∧
    (5 + n + 2 ≤ b.length → c = r → (∀ x, expectedLen cfg (byteAt b 2) (slice b 5 (5 + n)) = some x → n = x) →
      locator cfg b = .emit (b.take (5 + n + 2)) (5 + n + 2))

/-- What an emitted packet satisfies (41_frame_locator.md R137). -/
def Obligations.EmittedPacketIsSound : Prop :=
  ∀ (cfg : Params) (b p : List Byte) (t : Nat), locator cfg b = .emit p t →
    p = b.take t ∧ p.length = t ∧ byteAt p 0 = 0x45 ∧ byteAt p 1 = 0x52 ∧
    p.length = 7 + (le16 p 3).toNat ∧
    checksum (slice p 2 (p.length - 2)) = le16 p (p.length - 2) ∧
    (∀ x, expectedLen cfg (byteAt p 2) (slice p 5 (p.length - 2)) = some x → (le16 p 3).toNat = x)

/-- A packet item with its right checksum and a shape its kind accepts passes every check, and the same with a wrong
low checksum byte is `FATAL(E_CHECKSUM)` (30_encoding.md R108, R90; 41_frame_locator.md R135, R136). The spec marks as
its own choice or inference: R108 [decision D23]. -/
def Obligations.PacketItemsAreLocated : Prop :=
  ∀ (cfg : Params) (k : Byte) (q : List Byte), q.length ≤ 65535 →
    ((∀ x, expectedLen cfg k q = some x → q.length = x) → ValidPacket cfg (validPacket k q)) ∧
    ∃ r, locator cfg (badPacket k q) = .fatal .checksum ((checksum (covered k q)).toNat, r)

/-- `NEED_MORE` is answered only when fewer than 5 bytes are there or an aligned packet is incomplete, so a read is
requested with at most 65541 bytes buffered (20_memory.md R66). The spec marks as its own choice or inference: R66
[derived]. -/
def Obligations.NeedMoreBoundsBuffer : Prop :=
  ∀ (cfg : Params) (b : List Byte), locator cfg b = .needMore →
    (b.length < 5 ∨ (MarkerAt b 0 ∧ b.length < 7 + (le16 b 3).toNat)) ∧ b.length ≤ 65541

/-- A `SKIP(k)` has `1 ≤ k ≤ |B|`; what is left is aligned or empty, and its outcome is never another `SKIP`
(41_frame_locator.md R139). The spec marks as its own choice or inference: R139 [derived]. -/
def Obligations.NoSkipAfterSkip : Prop :=
  ∀ (cfg : Params) (b : List Byte) (k : Nat), locator cfg b = .skip k →
    1 ≤ k ∧ k ≤ b.length ∧ (MarkerAt (b.drop k) 0 ∨ (b.drop k = [] ∧ k = b.length)) ∧
    ∀ k', locator cfg (b.drop k) ≠ .skip k'

/-- Garbage without a marker before a valid packet in one buffer is skipped whole, and then the packet is emitted
(41_frame_locator.md R140 (b)). The spec marks as its own choice or inference: R140 [derived]. -/
def Obligations.GarbageThenPacket : Prop :=
  ∀ (cfg : Params) (g v rest : List Byte), g ≠ [] → (∀ i, ¬ MarkerAt g i) → ValidPacket cfg v →
    locator cfg (g ++ v ++ rest) = .skip g.length ∧ locator cfg ((g ++ v ++ rest).drop g.length) = .emit v v.length

/-- Partial delivery is transparent: every proper initial part of a valid packet asks for more, and the packet with
anything behind it is emitted (41_frame_locator.md R140 (c)). The spec marks as its own choice or inference: R140
[derived]. -/
def Obligations.PartialDeliveryIsTransparent : Prop :=
  ∀ (cfg : Params) (v rest : List Byte), ValidPacket cfg v →
    (∀ m, m < v.length → locator cfg (v.take m) = .needMore) ∧ locator cfg (v ++ rest) = .emit v v.length

/-- One changed byte in a valid packet at the head of the buffer (41_frame_locator.md R141; 40_checksum.md R126 (a)):
a changed kind, payload or checksum byte is always caught; a changed sync byte leaves garbage; a length changed to
more than is there waits; but a length changed downwards may pass, as the counter-example shows (90 C7). That the
counter-example's kind 0x10 is Unknown rests on the default kind codes (log 1, PRESUMED; 00_scope.md R9). The spec
marks as its own choice or inference: R141 [derived], R126 [derived], R9 [decision D2]. -/
def Obligations.SingleByteMutations : Prop :=
  (∀ (cfg : Params) (v rest : List Byte) (j : Nat) (b : Byte), ValidPacket cfg v → byteAt v j ≠ b →
    (j = 2 ∨ (5 ≤ j ∧ j < v.length) →
      ∃ c r, c ≠ r ∧ locator cfg (v.set j b ++ rest) = .fatal .checksum (c, r)) ∧
    (j < 2 → ¬ MarkerAt (v.set j b ++ rest) 0 ∧ ∃ k, locator cfg (v.set j b ++ rest) = .skip k) ∧
    (j = 3 ∨ j = 4 → (v ++ rest).length < 7 + (le16 (v.set j b) 3).toNat →
      locator cfg (v.set j b ++ rest) = .needMore)) ∧
  (∃ v : List Byte, ValidPacket Params.default v ∧ v.length = 9 ∧ byteAt v 3 = 0x02 ∧
    locator Params.default (v.set 3 0x00) = .emit (validPacket 0x10 []) 7)

/-! ## Packets as instructions -/

/-- Version: held when the triple is 0, 1, 0; otherwise the trap with `E_VERSION`, the packet consumed
(42_message_decoders.md R153; 60_exceptions.md R223; 44_scanner.md R201). The spec marks as its own choice or
inference: R223 [decision D8, D20]. -/
def Obligations.VersionRuns : Prop :=
  ∀ (q : List Byte) (s : State), s.cfg.wf = true → s.phase = .run → q.length = 7 →
    let k := s.cfg.kindVersion
    let ck := checksum (covered k q)
    let u := eaten q (summed k q s)
    (byteAt q 4 = 0 ∧ byteAt q 5 = 1 ∧ byteAt q 6 = 0 →
      exec (.version q ck) s = .next { u with
        pkt := packetBytes k q ck, pktLen := 14, kind := k
        val := .version { timeGPS := le32 q 0, high := 0, medium := 1, low := 0 }
        st := .holding, phase := .ready, deadline := none, resp := some (.ok .version k) }) ∧
    (¬ (byteAt q 4 = 0 ∧ byteAt q 5 = 1 ∧ byteAt q 6 = 0) → ∃ t, exec (.version q ck) s = .next t ∧
      Trapped .version ((byteAt q 4).toNat * 65536 + (byteAt q 5).toNat * 256 + (byteAt q 6).toNat, 0) u t)

/-- Position: four floats copied as patterns, longitude first, with the physical readings: TimeGPS in milliseconds,
longitude and latitude in degrees, altitudes in metres, each with the pattern it was sent as, accuracies in
millimetres (42_message_decoders.md R154, R152; 10_state.md R31; 30_encoding.md R96). The spec marks as its own choice
or inference: R154 [decision D13], R152 [from general knowledge], R31 [decision D12], R96 [from general knowledge]. -/
def Obligations.PositionRuns : Prop :=
  ∀ (q : List Byte) (s : State), s.cfg.wf = true → s.phase = .run → q.length = 44 →
    let k := s.cfg.kindPosition
    let ck := checksum (covered k q)
    ∃ r : PositionRec,
      exec (.position q ck) s = .next { eaten q (summed k q s) with
        pkt := packetBytes k q ck, pktLen := 51, kind := k, val := .position r
        st := .holding, phase := .ready, deadline := none, resp := some (.ok .position k) } ∧
      r = { timeGPS := le32 q 0, longitude := le64 q 4, latitude := le64 q 12, altitudeEllipsoid := le64 q 20,
            altitudeMSL := le64 q 28, horizontalAccuracy := le32 q 36, verticalAccuracy := le32 q 40 } ∧
      scaledValue (readTimeGPS r.timeGPS) = ((le32 q 0).toNat : Rat) ∧
      scaledValue (readHorizontalAccuracy r) = ((le32 q 36).toNat : Rat) ∧
      scaledValue (readVerticalAccuracy r) = ((le32 q 40).toNat : Rat) ∧
      [readTimeGPS r.timeGPS, readHorizontalAccuracy r, readVerticalAccuracy r].map Scaled.unit =
        [.milliseconds, .millimetres, .millimetres] ∧
      [readLongitude r, readLatitude r, readAltitudeEllipsoid r, readAltitudeMSL r].map FloatReading.bits =
        [le64 q 4, le64 q 12, le64 q 20, le64 q 28] ∧
      [readLongitude r, readLatitude r, readAltitudeEllipsoid r, readAltitudeMSL r].map FloatReading.unit =
        [.degrees, .degrees, .metres, .metres]

/-- Status: held when `HasFix` is 0 or 1, whatever `FixType` is; otherwise the trap with `E_FIELD`; the physical
readings, `WeekGPS` a GPS week number and `NumSVs` a count; and the name of the `FixType` byte, if it has one
(42_message_decoders.md R155; 60_exceptions.md R224; 10_state.md R31; 30_encoding.md R99). The numbers of the
`FixType` names are general knowledge in R99 (log 19, PRESUMED). The spec marks as its own choice or inference: R155
[decision D9, D10, D13], R224 [decision D9], R31 [decision D12], R99 [decision D10, D11]. -/
def Obligations.StatusRuns : Prop :=
  ∀ (q : List Byte) (s : State), s.cfg.wf = true → s.phase = .run → q.length = 9 →
    let k := s.cfg.kindStatus
    let ck := checksum (covered k q)
    let u := eaten q (summed k q s)
    (byteAt q 7 = 0 ∨ byteAt q 7 = 1 → ∃ r : StatusRec,
      exec (.status q ck) s = .next { u with
        pkt := packetBytes k q ck, pktLen := 16, kind := k, val := .status r
        st := .holding, phase := .ready, deadline := none, resp := some (.ok .status k) } ∧
      r = { timeGPS := le32 q 0, weekGPS := le16 q 4, fixType := byteAt q 6, hasFix := byteAt q 7, numSVs := byteAt q 8 } ∧
      [readTimeGPS r.timeGPS, readWeekGPS r, readNumSVs r.numSVs].map scaledValue =
        [((le32 q 0).toNat : Rat), ((le16 q 4).toNat : Rat), ((byteAt q 8).toNat : Rat)] ∧
      [readTimeGPS r.timeGPS, readWeekGPS r, readNumSVs r.numSVs].map Scaled.unit =
        [.milliseconds, .gpsWeeks, .count]) ∧
    (¬ (byteAt q 7 = 0 ∨ byteAt q 7 = 1) → ∃ t, exec (.status q ck) s = .next t ∧
      Trapped .field (7, (byteAt q 7).toNat) u t) ∧
    fixName (byteAt q 6) = [FixName.noFix, .single, .float, .rtk][(byteAt q 6).toNat]?

/-- DilutionOfPrecision, with the physical readings `raw x 1/100` (42_message_decoders.md R156). The spec marks as its
own choice or inference: R156 [decision D13], R161 [decision D14]. -/
def Obligations.DilutionOfPrecisionRuns : Prop :=
  ∀ (q : List Byte) (s : State), s.cfg.wf = true → s.phase = .run → q.length = 12 →
    let k := s.cfg.kindDop
    let ck := checksum (covered k q)
    ∃ r : DopRec,
      exec (.dilutionOfPrecision q ck) s = .next { eaten q (summed k q s) with
        pkt := packetBytes k q ck, pktLen := 19, kind := k, val := .dilutionOfPrecision r
        st := .holding, phase := .ready, deadline := none, resp := some (.ok .dilutionOfPrecision k) } ∧
      r = { timeGPS := le32 q 0, geometric := le16 q 4, position := le16 q 6, vertical := le16 q 8,
            horizontal := le16 q 10 } ∧
      scaledValue (readGeometric r) = ((le16 q 4).toNat : Rat) / 100 ∧
      scaledValue (readPositionDop r) = ((le16 q 6).toNat : Rat) / 100 ∧
      scaledValue (readVertical r) = ((le16 q 8).toNat : Rat) / 100 ∧
      scaledValue (readHorizontal r) = ((le16 q 10).toNat : Rat) / 100 ∧
      [readGeometric r, readPositionDop r, readVertical r, readHorizontal r].map Scaled.unit =
        List.replicate 4 .dimensionless

/-- Velocity, components and heading signed, speeds unsigned, with the physical readings (42_message_decoders.md
R157). The spec marks as its own choice or inference: R157 [decision D12, D13], R161 [decision D14]. -/
def Obligations.VelocityRuns : Prop :=
  ∀ (q : List Byte) (s : State), s.cfg.wf = true → s.phase = .run → q.length = 28 →
    let k := s.cfg.kindVelocity
    let ck := checksum (covered k q)
    ∃ r : VelocityRec,
      exec (.velocity q ck) s = .next { eaten q (summed k q s) with
        pkt := packetBytes k q ck, pktLen := 35, kind := k, val := .velocity r
        st := .holding, phase := .ready, deadline := none, resp := some (.ok .velocity k) } ∧
      r = { timeGPS := le32 q 0, north := le32 q 4, east := le32 q 8, down := le32 q 12, speed := le32 q 16,
            heading := le32 q 20, speedAccuracy := le32 q 24 } ∧
      scaledValue (readNorth r) = (i32le q 4 : Rat) / 100 ∧
      scaledValue (readEast r) = (i32le q 8 : Rat) / 100 ∧
      scaledValue (readDown r) = (i32le q 12 : Rat) / 100 ∧
      scaledValue (readSpeed r) = ((le32 q 16).toNat : Rat) / 100 ∧
      scaledValue (readHeading r) = (i32le q 20 : Rat) / 100000 ∧
      scaledValue (readSpeedAccuracy r) = ((le32 q 24).toNat : Rat) / 100 ∧
      [readNorth r, readEast r, readDown r, readSpeed r, readHeading r, readSpeedAccuracy r].map Scaled.unit =
        [.metresPerSecond, .metresPerSecond, .metresPerSecond, .metresPerSecond, .degrees, .metresPerSecond]

/-- SatelliteList: the fixed part is held, `SVCNT` is the payload's count and the cursor is 0 (42_message_decoders.md
R158; 43_satellite_iterator.md R183). -/
def Obligations.SatelliteListRuns : Prop :=
  ∀ (q : List Byte) (s : State), s.cfg.wf = true → s.phase = .run →
    q.length = 5 + 20 * (byteAt q 4).toNat →
    let k := s.cfg.kindSatlist
    let ck := checksum (covered k q)
    exec (.satelliteList q ck) s = .next { eaten q (summed k q s) with
      pkt := packetBytes k q ck, pktLen := BitVec.ofNat 17 (7 + q.length), kind := k
      val := .satelliteList { timeGPS := le32 q 0, numSVs := byteAt q 4 }
      svCnt := byteAt q 4, svCur := 0
      st := .holding, phase := .ready, deadline := none, resp := some (.ok .satelliteList k) }

/-- Unknown: any payload the length field holds, the empty one too, is held as it is; no field is extracted
(42_message_decoders.md R159). -/
def Obligations.UnknownRuns : Prop :=
  ∀ (k : Byte) (q : List Byte) (s : State), k ∉ s.cfg.kinds → s.phase = .run → q.length ≤ 65535 →
    let ck := checksum (covered k q)
    exec (.unknown k q ck) s = .next { eaten q (summed k q s) with
      pkt := packetBytes k q ck, pktLen := BitVec.ofNat 17 (7 + q.length), kind := k, val := .unknown q
      st := .holding, phase := .ready, deadline := none, resp := some (.ok (.unknown k) k) }

/-- A packet of any kind, known or Unknown, with a wrong checksum enters the trap with `E_CHECKSUM` and the computed
and received values; `BUF` and `POS` do not move, and no shape or field is looked at (60_exceptions.md R221, R228;
41_frame_locator.md R135, R142). The model's choices: R202 takes this trap and hands the packet on to nothing, and
that executing the packet all the same repeats the check and takes that same trap is log 16 (DEDUCED); the
accumulators hold the sums of that check (log 23, DEDUCED), and the elements R226 leaves open are free (log 6). The
spec marks as its own choice or inference: R221 [decision D8, D20], R228 [derived], R142 [derived], R226 [decision
D26]. -/
def Obligations.WrongChecksumTraps : Prop :=
  ∀ (i : Instr) (s : State) (k : Byte) (q : List Byte) (ck : Word16),
    packetParts s.cfg i = some (k, q, ck) → s.phase = .run → checksum (covered k q) ≠ ck →
    ∃ t, exec i s = .next t ∧ Trapped .checksum ((checksum (covered k q)).toNat, ck.toNat) (summed k q s) t

/-- A checksum-valid packet of a known kind with a payload length other than the expected one enters the trap with
`E_SHAPE` and `(expected, actual)`, whatever its contents (60_exceptions.md R222, R228; 41_frame_locator.md R136). The
model's choices: R202 takes this trap and hands the packet on to nothing, and that executing the packet all the same
repeats the checks and takes that same trap is log 16 (DEDUCED); the accumulators hold the sums of the checksum check
(log 23, DEDUCED), and the elements R226 leaves open are free (log 6). The spec marks as its own choice or inference:
R222 [decision D8], R228 [derived], R226 [decision D26]. -/
def Obligations.WrongShapeTraps : Prop :=
  ∀ (i : Instr) (s : State) (k : Byte) (q : List Byte) (ck : Word16) (x : Nat),
    packetParts s.cfg i = some (k, q, ck) → s.phase = .run → checksum (covered k q) = ck →
    expectedLen s.cfg k q = some x → q.length ≠ x →
    ∃ t, exec i s = .next t ∧ Trapped .shape (x, q.length) (summed k q s) t

/-- The frame of the seven packets: only what R201 and R226 name is written; the ports' queues, the parameters and the
read request are as they were; `BUF` and `POS` move by the packet or not at all; a held packet leaves the recorded
error, and all but a SatelliteList leave the cursor and count (44_scanner.md R201, R202; 10_state.md R32, R33). That a
packet failing its checks is executed at all, and takes the trap of R202, is the model's choice (log 16, DEDUCED). The
spec marks as its own choice or inference: R226 [decision D26], R32 [decision D19], R33 [decision D19]. -/
def Obligations.PacketFrame : Prop :=
  ∀ (i : Instr) (s t : State) (k : Byte) (q : List Byte) (ck : Word16),
    packetParts s.cfg i = some (k, q, ck) → exec i s = .next t →
    (t.cfg = s.cfg ∧ t.hostQ = s.hostQ ∧ t.srcQ = s.srcQ ∧ t.rdReq = s.rdReq ∧ t.unitOut = s.unitOut) ∧
    ((t.buf = s.buf ∧ t.pos = s.pos ∧ t.st = .failed) ∨
      (t.buf = s.buf.drop (7 + q.length) ∧ t.pos = s.pos + (7 + q.length))) ∧
    (t.st = .holding ∨ t.st = .failed) ∧
    (t.st = .holding → t.err = s.err ∧ t.errInfo = s.errInfo ∧ t.freeCtr = s.freeCtr ∧
      (tag s.cfg k ≠ .satelliteList → t.svCur = s.svCur ∧ t.svCnt = s.svCnt))

/-! ## Host commands -/

/-- ADVANCE at Ready, in each value of `ST` (44_scanner.md R194, R193). That it is accepted whether or not a source is
attached is the model's choice (log 27, DESIGN CHOICE): 70_reset_and_hazards.md R253 asks the host to attach one
first. The spec marks as its own choice or inference: R194 [decision D16], R193 [decision D25], R253 [derived]. -/
def Obligations.AdvanceAccepted : Prop :=
  ∀ (d : Option Token) (s : State), s.phase = .ready →
    (s.st = .failed → exec (.advance d) s = .next { s with resp := some (.fail s.err s.errInfo) }) ∧
    (s.st = .exhausted → exec (.advance d) s = .next { s with resp := some .endOfSequence }) ∧
    (s.st = .idle ∨ s.st = .holding →
      exec (.advance d) s = .next { s with phase := .run, deadline := d, resp := none })

/-- CURRENT_KIND at Ready (44_scanner.md R204). The spec marks as its own choice or inference: R204 [decision D17]. -/
def Obligations.CurrentKindAnswers : Prop :=
  ∀ s : State, s.phase = .ready →
    exec .currentKind s =
      .next { s with resp := some (if s.st = .holding then .ok (tag s.cfg s.kind) s.kind else .invalid) }

/-- The seven typed accessors at Ready (44_scanner.md R205). The spec marks as its own choice or inference: R205
[decision D17]. -/
def Obligations.AccessorsAnswer : Prop :=
  ∀ s : State, s.phase = .ready →
    let reply (mine : Prop) [Decidable mine] : Host.Outcome State Fault Refusal :=
      .next { s with resp := some (if s.st = .holding ∧ mine then .value s.val else .invalid) }
    exec .getVersion s = reply (tag s.cfg s.kind = .version) ∧
    exec .getPosition s = reply (tag s.cfg s.kind = .position) ∧
    exec .getStatus s = reply (tag s.cfg s.kind = .status) ∧
    exec .getDop s = reply (tag s.cfg s.kind = .dilutionOfPrecision) ∧
    exec .getVelocity s = reply (tag s.cfg s.kind = .velocity) ∧
    exec .getSatlist s = reply (tag s.cfg s.kind = .satelliteList) ∧
    exec .getUnknown s = reply (tag s.cfg s.kind = .unknown s.kind)

/-- RAW_PACKET at Ready (44_scanner.md R206). The spec marks as its own choice or inference: R206 [decision D17, D34].
-/
def Obligations.RawPacketAnswers : Prop :=
  ∀ s : State, s.phase = .ready →
    (s.st = .holding → exec .rawPacket s = .next { s with resp := some (.bytes (slice s.pkt 0 s.pktLen.toNat)) }) ∧
    (s.st ≠ .holding → exec .rawPacket s = .next { s with resp := some .invalid })

/-- NEXT_SATELLITE at Ready: the next sub-record by value, field by field at its offset, and the cursor moved; its
physical readings and the name of its `Type` byte, if it has one; or `END` with nothing changed
(43_satellite_iterator.md R181, R182, R184; 30_encoding.md R98, R99). The spec marks as its own choice or inference:
R182 [decision D11, D13], R184 [decision D18], R98 [decision D13], R99 [decision D10, D11]. -/
def Obligations.NextSatelliteAnswers : Prop :=
  ∀ s : State, s.phase = .ready →
    let q := slice s.pkt 5 (5 + (le16 s.pkt 3).toNat)
    let o := 5 + 20 * s.svCur.toNat
    (s.st = .holding ∧ tag s.cfg s.kind = .satelliteList ∧ s.svCur.toNat < s.svCnt.toNat →
      ∃ (t : State) (r : SubRec), exec .nextSatellite s = .next t ∧
        t = { s with svCur := t.svCur, resp := some (.some r) } ∧ t.svCur.toNat = s.svCur.toNat + 1 ∧
        r = { id := byteAt q o, satType := byteAt q (o + 1), carrierPhase := le32 q (o + 2),
              pseudoRangeResidual := le32 q (o + 6), dopplerFrequency := le32 q (o + 10),
              signalStrength := le16 q (o + 14), azimuth := le16 q (o + 16), elevation := le16 q (o + 18) } ∧
        scaledValue (readCarrierPhase r) = (i32le q (o + 2) : Rat) / 100 ∧
        scaledValue (readPseudoRangeResidual r) = (i32le q (o + 6) : Rat) ∧
        scaledValue (readDopplerFrequency r) = (i32le q (o + 10) : Rat) / 1000 ∧
        scaledValue (readSignalStrength r) = ((le16 q (o + 14)).toNat : Rat) / 4 ∧
        scaledValue (readAzimuth r) = ((le16 q (o + 16)).toNat : Rat) / 10 ∧
        scaledValue (readElevation r) = ((le16 q (o + 18)).toNat : Rat) / 10 ∧
        [readCarrierPhase r, readPseudoRangeResidual r, readDopplerFrequency r, readSignalStrength r, readAzimuth r,
          readElevation r].map Scaled.unit = [.cycles, .metres, .hertz, .decibelHertz, .degrees, .degrees] ∧
        satName r.satType =
          [SatName.gps, .glonass, .galileo, .qzss, .beiDou, .leo, .sbas][(byteAt q (o + 1)).toNat]?) ∧
    (¬ (s.st = .holding ∧ tag s.cfg s.kind = .satelliteList ∧ s.svCur.toNat < s.svCnt.toNat) →
      exec .nextSatellite s = .next { s with resp := some .endOfSequence })

/-- `PAYLOAD[o] = PKT[5 + o]` for every offset below the payload length (10_state.md R37), and while a SatelliteList
is held every one of its `SVCNT` sub-records lies inside `PAYLOAD` (20_memory.md R67). The spec marks as its own
choice or inference: R67 [derived]. -/
def Obligations.PayloadIsWindowOnPacket : Prop :=
  (∀ (p : List Byte) (o : Nat), o < (le16 p 3).toNat → byteAt (payloadOf p) o = byteAt p (5 + o)) ∧
  (∀ (s : State) (i : Nat), HoldingInv s → tag s.cfg s.kind = .satelliteList → i < s.svCnt.toNat →
    subBase i + 20 ≤ (payloadOf s.pkt).length ∧ (payloadOf s.pkt).length = 5 + 20 * s.svCnt.toNat)

/-- Iteration of a held list from cursor 0 yields exactly its `SVCNT` records in index order and then `END` for ever
(43_satellite_iterator.md R185). The spec marks as its own choice or inference: R185 [derived]. -/
def Obligations.IterationYieldsAllRecords : Prop :=
  ∀ (s : State) (m : Nat), s.phase = .ready → s.st = .holding → tag s.cfg s.kind = .satelliteList → s.svCur = 0 →
    ∃ t, askTimes .nextSatellite (s.svCnt.toNat + m) s =
      some ((List.range s.svCnt.toNat).map (fun i => some (Response.some (subRec (payloadOf s.pkt) i))) ++
        List.replicate m (some Response.endOfSequence), t) ∧
      t.svCur = s.svCnt ∧ t.pkt = s.pkt ∧ t.val = s.val

/-- The frame of the host commands: all but ADVANCE write nothing but their response, and NEXT_SATELLITE its cursor
besides; ADVANCE writes only what takes it in flight (10_state.md R40; 44_scanner.md R194). The nine plain reads are
idempotent: asked again with nothing in between, each gives the same answer (20_memory.md R64). The spec marks as its
own choice or inference: R194 [decision D16], R64 [derived]. -/
def Obligations.CommandFrame : Prop :=
  (∀ (i : Instr) (s t : State), isCommand i = true → exec i s = .next t →
    t = { s with resp := t.resp, svCur := t.svCur, phase := t.phase, deadline := t.deadline } ∧
    (i ≠ .nextSatellite → t.svCur = s.svCur) ∧
    ((∀ d, i ≠ .advance d) → t.phase = s.phase ∧ t.deadline = s.deadline)) ∧
  (∀ (i : Instr) (s : State), isPlainRead i = true → s.phase = .ready →
    ∃ t, exec i s = .next t ∧ exec i t = .next t ∧ t = { s with resp := t.resp })

/-! ## Source events -/

/-- DATA(c) in WaitSrc, with 1 to `CHUNK_MAX` bytes: `BUF <- BUF ++ c` and `PHASE <- Run`, so that each byte already
in `BUF` reads as before and the delivery stands behind them; the read request is answered (44_scanner.md R197, R192;
20_memory.md R70). That the request is a field of State is the model's choice (log 8); the empty delivery is in
OutOfTurnStops (log 11). The spec marks as its own choice or inference: R192 [decision D3, D32], R70 [decision D3]. -/
def Obligations.DataIsAppended : Prop :=
  ∀ (c : List Byte) (s : State), s.phase = .waitSrc → 1 ≤ c.length → s.cfg.chunkFits c = true →
    ∃ t, exec (.data c) s = .next t ∧ t = { s with buf := s.buf ++ c, phase := .run, rdReq := none } ∧
      t.buf.length = s.buf.length + c.length ∧
      (∀ a, a < s.buf.length → byteAt t.buf a = byteAt s.buf a) ∧
      (∀ a, byteAt t.buf (s.buf.length + a) = byteAt c a)

/-- EOS in WaitSrc: a clean end, whatever `BUF` holds, which is kept (44_scanner.md R198). The spec marks as its own
choice or inference: R198 [decision D15]. -/
def Obligations.EosEndsCleanly : Prop :=
  ∀ s : State, s.phase = .waitSrc → ∃ t, exec .eos s = .next t ∧ Ended { s with rdReq := none } t

/-- IOERR in WaitSrc: the trap with `E_IO`, whatever detail it carries (44_scanner.md R199; 60_exceptions.md R225).
The spec marks as its own choice or inference: R225 [decision D8], R226 [decision D26]. -/
def Obligations.IoerrTraps : Prop :=
  ∀ s : State, s.phase = .waitSrc → ∃ t info, exec .ioerr s = .next t ∧ Trapped .io info { s with rdReq := none } t

/-- What the spec gives no transition: a command while an ADVANCE is in flight, a source answer nobody asked for, a
delivery longer than `CHUNK_MAX` (44_scanner.md R190, R192; 70_reset_and_hazards.md R258, R263). The model's choices:
each of these stops by a fault of its own name (log 9, DEDUCED; log 11, DESIGN CHOICE); so does a packet executed when
the block is not at the Run step, of which R195 does not speak (log 9); and the empty delivery, which the source never
makes, is the no-op re-request of 92 D32 (log 11). The spec marks as its own choice or inference: R190 [decision D24],
R192 [decision D3, D32], R258 [decision D24], R263 [decision D3, D24, D32]. -/
def Obligations.OutOfTurnStops : Prop :=
  ∀ s : State,
    (s.phase ≠ .ready → ∀ i, isCommand i = true → exec i s = .fault .commandInFlight) ∧
    (s.phase ≠ .waitSrc → exec .eos s = .fault .unaskedAnswer ∧ exec .ioerr s = .fault .unaskedAnswer ∧
      ∀ c, s.cfg.chunkFits c = true → exec (.data c) s = .fault .unaskedAnswer) ∧
    (∀ c m, s.cfg.chunkMax = some m → m < c.length → exec (.data c) s = .fault .deliveryTooLong) ∧
    (s.phase = .waitSrc → exec (.data []) s = .next { s with phase := .run, rdReq := none }) ∧
    (s.phase ≠ .run → ∀ i p, packetParts s.cfg i = some p → exec i s = .fault .notAtRunStep)

/-! ## The step -/

/-- A step runs the instruction the moving agent brings: at Ready the command the host's word decodes to, in WaitSrc
the source's next answer; the word or the answer is taken (44_scanner.md R190, R192). The spec marks as its own choice
or inference: R190 [decision D24], R192 [decision D3, D32]. -/
def Obligations.StepRunsCommandOrAnswer : Prop :=
  ∀ s : State,
    (∀ (w : HostWord) (rest : List HostEvent) (i : Instr),
      s.phase = .ready → s.hostQ = .command w :: rest → decodeHost w = .ok i →
      step s = exec i { s with hostQ := rest }) ∧
    (∀ (e : SrcEvent) (rest : List SrcEvent),
      HostWaits s.hostQ → s.phase = .waitSrc → s.srcQ = e :: rest →
      step s = exec (srcInstr e) { s with srcQ := rest })

/-- A step at the Run step, with a whole packet at the head of `BUF`, answers what the instruction that packet decodes
to answers from the state LOCATE leaves. Where LOCATE emits the packet, this is the act of 44_scanner.md R195 and
R201. The model's choices: where the packet fails its checks, R202 takes the trap and hands the packet on to nothing,
and that executing the packet all the same repeats the checks and takes that same trap is log 16 (DEDUCED); that it
starts from the state LOCATE leaves, in which LOCATE's own result and the scratch accumulators are recorded, is log 15
(DEDUCED) and log 8. -/
def Obligations.StepRunsPacket : Prop :=
  ∀ (s : State) (i : Instr) (rest : List Byte),
    HostWaits s.hostQ → s.phase = .run → decodePacket s.cfg s.buf = .ok (i, rest) →
    ∃ u, exec .locate s = .next u ∧ step s = exec i u

/-- The Run step by the outcome of LOCATE: a read request that carries the deadline, a silent skip, or trap entry with
`BUF` and `POS` as they are (44_scanner.md R195, R196, R200, R202; 60_exceptions.md R226). The model's choices: it
starts from the state LOCATE leaves, in which LOCATE's own result and the scratch accumulators are recorded (log 8,
log 15), and the elements R226 leaves open are free (log 6). The spec marks as its own choice or inference: R226
[decision D26]. -/
def Obligations.RunStepActsOnOutcome : Prop :=
  ∀ (s u : State), HostWaits s.hostQ → s.phase = .run → exec .locate s = .next u →
    (locator s.cfg s.buf = .needMore →
      step s = .next { u with rdReq := some { deadline := s.deadline }, phase := .waitSrc }) ∧
    (∀ k, locator s.cfg s.buf = .skip k → step s = .next { u with buf := s.buf.drop k, pos := s.pos + k }) ∧
    (∀ e info, locator s.cfg s.buf = .fatal e info → ∃ t, step s = .next t ∧ Trapped e info u t)

/-- Waiting keeps all state: at Ready with no command, and in WaitSrc with no answer (44_scanner.md R209;
60_exceptions.md R237). That a wait is a step is the model's choice (log 3), and so is that an ADVANCE without a
source attached waits as for a silent one (log 27). The spec marks as its own choice or inference: R237 [derived]. -/
def Obligations.WaitingKeepsState : Prop :=
  ∀ s : State, s.hostQ = [] → s.phase = .ready ∨ (s.phase = .waitSrc ∧ s.srcQ = []) → step s = .next s

/-- Reset in any phase and state leaves Idle, nothing buffered, `POS` 0, Ready, bound to the new source, with no
packet or error readable (70_reset_and_hazards.md R250, R251; 10_state.md R39). The spec marks as its own choice or
inference: R250 [decision D21], R251 [decision D21], R39 [decision D21]. -/
def Obligations.ResetAtAnyTime : Prop :=
  ∀ (s : State) (src : List SrcEvent) (rest : List HostEvent), s.hostQ = .reset src :: rest →
    ∃ t, step s = .next t ∧ t.st = .idle ∧ t.buf = [] ∧ t.pos = 0 ∧ t.phase = .ready ∧ t.srcQ = src ∧ t.hostQ = rest ∧
      t.cfg = s.cfg ∧ t.resp = none ∧ t.rdReq = none ∧ t.deadline = none

/-- The state after reset, as far as the spec gives it, and what the accessors answer there (10_state.md R39;
70_reset_and_hazards.md R253). The spec marks as its own choice or inference: R39 [decision D21], R253 [derived]. -/
def Obligations.ResetStateAndAnswers : Prop :=
  State.reset.st = .idle ∧ State.reset.buf = [] ∧ State.reset.pos = 0 ∧ State.reset.phase = .ready ∧
  (∀ i, isPlainRead i = true → exec i State.reset = .next { State.reset with resp := some .invalid }) ∧
  exec .nextSatellite State.reset = .next { State.reset with resp := some .endOfSequence }

/-! ## The whole machine -/

/-- The invariant holds after reset (10_state.md R39). It says so of the parameters' defaults too (log 1, log 2). The
spec marks as its own choice or inference: R39 [decision D21], R27 [derived]. -/
def Obligations.ResetMeetsInvariant : Prop := Inv State.reset

/-- Every step keeps the invariant: R27 while a packet is held, one read request and only in WaitSrc, the occupancy of
`BUF` (10_state.md R27; 20_memory.md R66; 44_scanner.md R190, R196, R198). The spec marks as its own choice or
inference: R27 [derived], R66 [derived], R190 [decision D24], R198 [decision D15]. -/
def Obligations.StepKeepsInvariant : Prop :=
  ∀ s t : State, Inv s → step s = .next t → Inv t

/-- With a host that issues only commands and attaches only sources that keep their bound, and a source that keeps its
bound, every step answers a next state in which both duties hold again, and so no number of steps ends in a stop,
whatever the bytes, the commands and the source's answers (41_frame_locator.md R139; 44_scanner.md R195;
70_reset_and_hazards.md R263; 00_scope.md R12). That a wait for host or source is a step that changes nothing is the
model's choice (log 3), so this says that nothing stops and not that an ADVANCE ends (44_scanner.md R209); that an
ADVANCE without a source attached waits too, so that the host's duty to attach one (R253) is not needed here, is the
model's choice (log 27). The spec marks as its own choice or inference: R139 [derived], R263 [decision D3, D24, D32],
R12 [decision D1], R253 [derived]. -/
def Obligations.NoStepStops : Prop :=
  (∀ s : State, HostDuty s → SourceDuty s → ∃ t, step s = .next t ∧ HostDuty t ∧ SourceDuty t) ∧
  (∀ (s : State) (n : Nat), HostDuty s → SourceDuty s → ∃ t, Sys2Proof.core.run n s = .next t)

/-- The moves of `ST` are those of the table of 44_scanner.md R207, with their responses: outside a reset, `ST`
changes and an ADVANCE is answered only together, from Idle or Holding. -/
def Obligations.ScannerStateMoves : Prop :=
  ∀ s t : State, PortInv s → step s = .next t →
    (∃ src rest, s.hostQ = .reset src :: rest ∧ t.st = .idle ∧ t.resp = none) ∨
    (t.st = s.st ∧ (s.phase ≠ .ready → t.phase ≠ .ready ∧ t.resp = none)) ∨
    (s.phase ≠ .ready ∧ t.phase = .ready ∧ (s.st = .idle ∨ s.st = .holding) ∧
      ((t.st = .holding ∧ t.resp = some (.ok (tag t.cfg t.kind) t.kind)) ∨
       (t.st = .exhausted ∧ t.resp = some .endOfSequence) ∨
       (t.st = .failed ∧ t.resp = some (.fail t.err t.errInfo))))

/-- `BUF` is the stream from byte `POS` on: outside a reset, a step takes `k` bytes from its front and adds `k` to
`POS`, or puts the delivery the source has just made behind it; it never moves backwards (10_state.md R22, R23, R36).
The spec marks as its own choice or inference: R22 [decision D4], R23 [decision D22], R36 [decision D22]. -/
def Obligations.StreamHeadMovesForward : Prop :=
  ∀ s t : State, step s = .next t → (∀ src rest, s.hostQ ≠ .reset src :: rest) →
    (∃ k, k ≤ s.buf.length ∧ t.buf = s.buf.drop k ∧ t.pos = s.pos + k ∧ s.pos ≤ t.pos) ∨
    (∃ c, s.srcQ = .data c :: t.srcQ ∧ s.phase = .waitSrc ∧ t.buf = s.buf ++ c ∧ t.pos = s.pos)

/-- Terminal states are left only by reset: in Failed the first error stays recorded, in both nothing is consumed,
asked or held any more (60_exceptions.md R231, R232; 44_scanner.md R207, R210). The spec marks as its own choice or
inference: R232 [derived], R210 [derived]. -/
def Obligations.TerminalStatesAreFinal : Prop :=
  ∀ s t : State, PortInv s → s.st = .failed ∨ s.st = .exhausted → step s = .next t →
    (∀ src rest, s.hostQ ≠ .reset src :: rest) →
    t = { s with resp := t.resp, hostQ := t.hostQ }

/-- No step writes a build parameter (00_scope.md R10). -/
def Obligations.ParametersAreFixed : Prop :=
  ∀ s t : State, step s = .next t → t.cfg = s.cfg

/-- Every step keeps the form of the block's memory: `PKT` has exactly `PKTLEN` bytes while a packet is held
(10_state.md R26, R37). -/
def Obligations.StepKeepsMemoryForm : Prop :=
  ∀ s t : State, Memory.wf s = true → step s = .next t → Memory.wf t = true

/-- ADVANCE as one step agrees with the small steps: with the host waiting and the source keeping its bound, some
number of steps from the command reaches exactly what the function of 44_scanner.md R203 gives, in which two locator
outcomes suffice between reads (R208). That host and source are lists of what they will do is the model's choice (log
3); with no source attached both forms wait alike (log 27). The spec marks as its own choice or inference: R203
[derived], R208 [derived]. -/
def Obligations.AdvanceAsOneStepAgrees : Prop :=
  ∀ (s : State) (w : HostWord) (rest : List HostEvent) (d : Option Token),
    s.phase = .ready → s.hostQ = .command w :: rest → decodeHost w = .ok (.advance d) → HostWaits rest → SourceDuty s →
    ∃ n, Sys2Proof.core.run n s = .next (advanceWhole d { s with hostQ := rest })
end

