-- ==== Sys2Proof/Laws/Bytes.lean ====
section
/-! SUPPORT. Byte strings, the packet format and its parts. -/

namespace Sys2Proof

open Sys2Proof.Machine

@[simp] theorem byteAt_cons_zero (x : Byte) (b : List Byte) : byteAt (x :: b) 0 = x := rfl
@[simp] theorem byteAt_cons_succ (x : Byte) (b : List Byte) (o : Nat) : byteAt (x :: b) (o + 1) = byteAt b o := rfl
@[simp] theorem byteAt_nil (o : Nat) : byteAt [] o = 0 := rfl

theorem byteAt_append_left (a b : List Byte) {o : Nat} (h : o < a.length) : byteAt (a ++ b) o = byteAt a o := by
  simp [byteAt, List.getD_eq_getElem?_getD, List.getElem?_append_left h]

theorem byteAt_append_right (a b : List Byte) (o : Nat) : byteAt (a ++ b) (a.length + o) = byteAt b o := by
  simp [byteAt, List.getD_eq_getElem?_getD, List.getElem?_append_right]

theorem byteAt_take (b : List Byte) {o n : Nat} (h : o < n) : byteAt (b.take n) o = byteAt b o := by
  simp [byteAt, List.getD_eq_getElem?_getD, h]

theorem byteAt_drop (b : List Byte) (n o : Nat) : byteAt (b.drop n) o = byteAt b (n + o) := by
  simp [byteAt, List.getD_eq_getElem?_getD, List.getElem?_drop]

theorem byteAt_slice (b : List Byte) {i j o : Nat} (h : o < j - i) : byteAt (slice b i j) o = byteAt b (i + o) := by
  rw [slice, byteAt_take _ h, byteAt_drop]

theorem slice_length (b : List Byte) {i j : Nat} (hj : j ≤ b.length) : (slice b i j).length = j - i := by
  simp [slice]; omega

theorem slice_take (b : List Byte) {i j n : Nat} (h : j ≤ n) : slice (b.take n) i j = slice b i j := by
  simp only [slice, List.drop_take, List.take_take]
  congr 1
  omega

theorem slice_append_left (a b : List Byte) {i j : Nat} (h : j ≤ a.length) : slice (a ++ b) i j = slice a i j := by
  rw [← slice_take (a ++ b) (n := a.length) h, List.take_left]

theorem le16_congr {a b : List Byte} {o : Nat} (h0 : byteAt a o = byteAt b o)
    (h1 : byteAt a (o + 1) = byteAt b (o + 1)) : le16 a o = le16 b o := by
  simp only [le16, h0, h1]

theorem le16_take (b : List Byte) {o n : Nat} (h : o + 1 < n) : le16 (b.take n) o = le16 b o :=
  le16_congr (byteAt_take b (by omega)) (byteAt_take b h)

theorem le16_drop (b : List Byte) (n o : Nat) : le16 (b.drop n) o = le16 b (n + o) := by
  simp only [le16, byteAt_drop, Nat.add_assoc]

theorem le16_append_left (a b : List Byte) {o : Nat} (h : o + 1 < a.length) : le16 (a ++ b) o = le16 a o :=
  le16_congr (byteAt_append_left a b (by omega)) (byteAt_append_left a b h)

theorem hi_append_lo (v : Word16) : hiByte v ++ loByte v = v := by
  apply BitVec.eq_of_getLsbD_eq
  intro i hi
  simp only [BitVec.getLsbD_append, hiByte, loByte, BitVec.getLsbD_extractLsb']
  by_cases h : i < 8
  · simp [h]
  · have e : 8 + (i - 8) = i := by omega
    have l : i - 8 < 8 := by omega
    simp [h, e, l]

theorem toNat_append8 (a b : Byte) : (a ++ b : Word16).toNat = a.toNat * 256 + b.toNat := by
  rw [BitVec.toNat_append, ← Nat.shiftLeft_add_eq_or_of_lt b.isLt, Nat.shiftLeft_eq]

theorem hiByte_toNat (v : Word16) : (hiByte v).toNat = v.toNat / 256 := by
  have := v.isLt
  simp [hiByte, BitVec.extractLsb'_toNat, Nat.shiftRight_eq_div_pow]; omega

theorem loByte_toNat (v : Word16) : (loByte v).toNat = v.toNat % 256 := by
  simp [loByte, BitVec.extractLsb'_toNat]

@[simp] theorem hiByte_append (a b : Byte) : hiByte (a ++ b : Word16) = a := by
  apply BitVec.eq_of_toNat_eq
  have := b.isLt
  rw [hiByte_toNat, toNat_append8]; omega

@[simp] theorem loByte_append (a b : Byte) : loByte (a ++ b : Word16) = b := by
  apply BitVec.eq_of_toNat_eq
  have := b.isLt
  rw [loByte_toNat, toNat_append8]; omega

@[simp] theorem le16_bytesU16 (v : Word16) (rest : List Byte) : le16 (bytesU16 v ++ rest) 0 = v :=
  hi_append_lo v

theorem le16_toNat (b : List Byte) (o : Nat) :
    (le16 b o).toNat = (byteAt b o).toNat + 256 * (byteAt b (o + 1)).toNat := by
  rw [le16, toNat_append8]; omega

/-! ## The packet format -/

@[simp] theorem covered_length (k : Byte) (q : List Byte) : (covered k q).length = 3 + q.length := by
  simp [covered, bytesU16]; omega

@[simp] theorem packetBytes_length (k : Byte) (q : List Byte) (ck : Word16) :
    (packetBytes k q ck).length = 7 + q.length := by
  simp [packetBytes, bytesU16]; omega

@[simp] theorem byteAt_covered_zero (k : Byte) (q : List Byte) : byteAt (covered k q) 0 = k := rfl
@[simp] theorem covered_drop (k : Byte) (q : List Byte) : (covered k q).drop 3 = q := rfl
@[simp] theorem byteAt_packetBytes_two (k : Byte) (q : List Byte) (ck : Word16) :
    byteAt (packetBytes k q ck) 2 = k := rfl
@[simp] theorem aligned_packetBytes (k : Byte) (q : List Byte) (ck : Word16) (rest : List Byte) :
    aligned (packetBytes k q ck ++ rest) = true := rfl

theorem lengthField_toNat {q : List Byte} (h : q.length ≤ 65535) : (lengthField q).toNat = q.length := by
  simp [lengthField]; omega

theorem payloadLen_packetBytes (k : Byte) {q : List Byte} (ck : Word16) (rest : List Byte) (h : q.length ≤ 65535) :
    payloadLen (packetBytes k q ck ++ rest) = q.length := by
  have : le16 (packetBytes k q ck ++ rest) 3 = lengthField q := hi_append_lo _
  rw [payloadLen, this, lengthField_toNat h]

theorem totalLen_packetBytes (k : Byte) {q : List Byte} (ck : Word16) (rest : List Byte) (h : q.length ≤ 65535) :
    totalLen (packetBytes k q ck ++ rest) = 7 + q.length := by
  rw [totalLen, payloadLen_packetBytes k ck rest h]; simp [Config.hdrLen, Config.ckLen]; omega

theorem slice_packetBytes (k : Byte) (q : List Byte) (ck : Word16) :
    slice (packetBytes k q ck) 5 (5 + q.length) = q := by
  show (q ++ bytesU16 ck).take (5 + q.length - 5) = q
  rw [Nat.add_sub_cancel_left, List.take_left]

theorem slice_covered (k : Byte) (q : List Byte) (ck : Word16) :
    slice (packetBytes k q ck) 2 (5 + q.length) = covered k q := by
  show (covered k q ++ bytesU16 ck).take (5 + q.length - 2) = covered k q
  have : 5 + q.length - 2 = (covered k q).length := by rw [covered_length]; omega
  rw [this, List.take_left]

theorem le16_ckField (k : Byte) (q : List Byte) (ck : Word16) : le16 (packetBytes k q ck) (5 + q.length) = ck := by
  have e : packetBytes k q ck = (Config.sync0 :: Config.sync1 :: covered k q) ++ (bytesU16 ck ++ []) := by
    simp [packetBytes]
  have l : (Config.sync0 :: Config.sync1 :: covered k q).length = 5 + q.length := by simp; omega
  have d := le16_drop (packetBytes k q ck) (5 + q.length) 0
  rw [Nat.add_zero] at d
  rw [← d, e, ← l, List.drop_left, le16_bytesU16]

theorem coveredOf_packetBytes (k : Byte) {q : List Byte} (ck : Word16) (h : q.length ≤ 65535) :
    coveredOf (packetBytes k q ck) = covered k q := by
  have := payloadLen_packetBytes k ck [] h
  rw [List.append_nil] at this
  rw [coveredOf, this]; exact slice_covered k q ck

theorem ckFieldOf_packetBytes (k : Byte) {q : List Byte} (ck : Word16) (h : q.length ≤ 65535) :
    ckFieldOf (packetBytes k q ck) = ck := by
  have := payloadLen_packetBytes k ck [] h
  rw [List.append_nil] at this
  rw [ckFieldOf, this]; exact le16_ckField k q ck

theorem packetInstr_packetBytes (cfg : Params) (k : Byte) {q : List Byte} (ck : Word16) (h : q.length ≤ 65535) :
    packetInstr cfg (packetBytes k q ck) = kindInstr cfg k q ck := by
  have := payloadLen_packetBytes k ck [] h
  rw [List.append_nil] at this
  simp only [packetInstr, this, Config.hdrLen, slice_packetBytes, le16_ckField, byteAt_packetBytes_two]

/-- Rebuilding an aligned, complete byte string from its parts: the packet format has no other bytes. -/
theorem packetBytes_of_parts {b : List Byte} (ha : aligned b = true) (hl : b.length = totalLen b) :
    packetBytes (byteAt b 2) (slice b 5 (5 + payloadLen b)) (ckFieldOf b) = b := by
  obtain ⟨h0, h1⟩ : byteAt b 0 = Config.sync0 ∧ byteAt b 1 = Config.sync1 := by simpa [aligned] using ha
  have hT : b.length = 5 + payloadLen b + 2 := hl
  obtain ⟨x0, x1, x2, x3, x4, tl, rfl⟩ : ∃ x0 x1 x2 x3 x4 tl, b = x0 :: x1 :: x2 :: x3 :: x4 :: tl := by
    match b with
    | x0 :: x1 :: x2 :: x3 :: x4 :: tl => exact ⟨x0, x1, x2, x3, x4, tl, rfl⟩
    | [] | [_] | [_, _] | [_, _, _] | [_, _, _, _] => simp at hT <;> omega
  · clear ha hl
    have hq : slice (x0 :: x1 :: x2 :: x3 :: x4 :: tl) 5 (5 + payloadLen (x0 :: x1 :: x2 :: x3 :: x4 :: tl)) =
        tl.take (payloadLen (x0 :: x1 :: x2 :: x3 :: x4 :: tl)) := by
      simp [slice]
    have hN : payloadLen (x0 :: x1 :: x2 :: x3 :: x4 :: tl) = (x4 ++ x3 : Word16).toNat := rfl
    have hlt : (x4 ++ x3 : Word16).toNat < 65536 := (x4 ++ x3 : Word16).isLt
    generalize hn : payloadLen (x0 :: x1 :: x2 :: x3 :: x4 :: tl) = n at *
    have htl : tl.length = n + 2 := by simp at hT; omega
    have hf : lengthField (tl.take n) = x4 ++ x3 := by
      apply BitVec.eq_of_toNat_eq
      rw [lengthField_toNat] <;> simp [htl] <;> omega
    have hc : bytesU16 (ckFieldOf (x0 :: x1 :: x2 :: x3 :: x4 :: tl)) = tl.drop n := by
      have e : ckFieldOf (x0 :: x1 :: x2 :: x3 :: x4 :: tl) = byteAt tl (n + 1) ++ byteAt tl n := by
        rw [ckFieldOf, hn]
        have : Config.hdrLen + n = (n + 4) + 1 := by simp [Config.hdrLen]; omega
        rw [this, le16]; rfl
      rw [e, bytesU16, loByte_append, hiByte_append]
      obtain ⟨y, z, hyz⟩ : ∃ y z, tl.drop n = [y, z] := by
        have : (tl.drop n).length = 2 := by simp [htl]
        match h : tl.drop n, this with
        | [y, z], _ => exact ⟨y, z, rfl⟩
      have d0 := byteAt_drop tl n 0
      have d1 := byteAt_drop tl n 1
      rw [hyz] at d0 d1 ⊢
      simp at d0 d1
      rw [← d0, ← d1]
    rw [hq, packetBytes, covered, hf, hc]
    simp only [byteAt_cons_zero, byteAt_cons_succ] at h0 h1 ⊢
    simp [bytesU16, h0, h1]

end Sys2Proof
end

