-- ==== Sys2Proof/Laws/Checksum.lean ====
section
/-! SUPPORT. The accumulators of the Checksum unit from any starting value. -/

namespace Sys2Proof

open Sys2Proof.Machine

@[simp] theorem ckAdd_fst (ab : Byte × Byte) (x : Byte) : (ckAdd ab x).1 = ab.1 + x := rfl
@[simp] theorem ckAdd_snd (ab : Byte × Byte) (x : Byte) : (ckAdd ab x).2 = ab.2 + (ab.1 + x) := rfl

theorem ckFold_append (x y : List Byte) : ckFold (x ++ y) = y.foldl ckAdd (ckFold x) := by
  simp [ckFold, List.foldl_append]

theorem ckFold_snoc (x : List Byte) (b : Byte) : ckFold (x ++ [b]) = ckAdd (ckFold x) b := ckFold_append x [b]

theorem ckValue_toNat (ab : Byte × Byte) : (ckValue ab).toNat = ab.2.toNat * 256 + ab.1.toNat := toNat_append8 _ _

theorem ckValue_low (ab : Byte × Byte) : (ckValue ab).toNat % 256 = ab.1.toNat := by
  have := ab.1.isLt
  rw [ckValue_toNat]; omega

theorem ckValue_high (ab : Byte × Byte) : (ckValue ab).toNat / 256 = ab.2.toNat := by
  have := ab.1.isLt
  rw [ckValue_toNat]; omega

theorem ckValue_inj {ab cd : Byte × Byte} : ckValue ab = ckValue cd ↔ ab = cd := by
  refine ⟨fun h => ?_, congrArg ckValue⟩
  have hl := congrArg (fun v : Word16 => v.toNat % 256) h
  have hh := congrArg (fun v : Word16 => v.toNat / 256) h
  simp only [ckValue_low, ckValue_high] at hl hh
  exact Prod.ext (BitVec.eq_of_toNat_eq hl) (BitVec.eq_of_toNat_eq hh)

/-- The first accumulator is a sum: the bytes' order and the start only add. -/
theorem foldl_ckAdd_fst (x : List Byte) (ab : Byte × Byte) : (x.foldl ckAdd ab).1 = ab.1 + (ckFold x).1 := by
  induction x using List.reverseRecOn with
  | nil => simp [ckFold]
  | append_singleton x b ih => simp [ckFold_append, List.foldl_append, ih, BitVec.add_assoc]

/-- The second accumulator, from any start: it grows by the start's first once per byte. -/
theorem foldl_ckAdd_snd (x : List Byte) (ab : Byte × Byte) :
    (x.foldl ckAdd ab).2 = ab.2 + BitVec.ofNat 8 x.length * ab.1 + (ckFold x).2 := by
  induction x using List.reverseRecOn with
  | nil => simp [ckFold]
  | append_singleton x b ih =>
    have e : BitVec.ofNat 8 (x.length + 1) = BitVec.ofNat 8 x.length + 1 := by
      apply BitVec.eq_of_toNat_eq; simp
    simp only [ckFold_append, List.foldl_append, List.foldl_cons, List.foldl_nil, ckAdd_snd, ih, foldl_ckAdd_fst,
      List.length_append, List.length_cons, List.length_nil, Nat.zero_add, e]
    ring

end Sys2Proof
end

