-- ==== Sys2Proof/Laws/Locator.lean ====
section
/-! SUPPORT. What the Frame Locator's search and checks say, once. -/

namespace Sys2Proof

open Sys2Proof.Machine

theorem aligned_iff {b : List Byte} (h : 2 ≤ b.length) : aligned b = true ↔ MarkerAt b 0 := by
  simp [aligned, MarkerAt]; omega

theorem aligned_take (b : List Byte) {n : Nat} (h : 2 ≤ n) : aligned (b.take n) = aligned b := by
  simp [aligned, byteAt_take b (show 0 < n by omega), byteAt_take b (show 1 < n by omega)]

theorem payloadLen_take (b : List Byte) {n : Nat} (h : 5 ≤ n) : payloadLen (b.take n) = payloadLen b := by
  rw [payloadLen, le16_take b (by omega), payloadLen]

theorem totalLen_take (b : List Byte) {n : Nat} (h : 5 ≤ n) : totalLen (b.take n) = totalLen b := by
  rw [totalLen, payloadLen_take b h, totalLen]

theorem totalLen_eq (b : List Byte) : totalLen b = 7 + payloadLen b := by
  simp [totalLen, Config.hdrLen, Config.ckLen]; omega

theorem payloadLen_lt (b : List Byte) : payloadLen b < 65536 := (le16 b 3).isLt

theorem totalLen_le (b : List Byte) : totalLen b ≤ 65542 := by
  have := payloadLen_lt b
  rw [totalLen_eq]; omega

theorem markerAt_drop (b : List Byte) (n i : Nat) : MarkerAt (b.drop n) i ↔ MarkerAt b (n + i) := by
  simp only [MarkerAt, List.length_drop, byteAt_drop, Nat.add_assoc]
  constructor <;> rintro ⟨h, h0, h1⟩ <;> exact ⟨by omega, h0, h1⟩

/-- The search finds the least whole marker, or there is none (41_frame_locator.md R132). -/
theorem findMarker_spec (i : Nat) (b : List Byte) :
    (∀ j, findMarker i b = some j → ∃ l, j = i + l ∧ MarkerAt b l ∧ ∀ m, m < l → ¬ MarkerAt b m) ∧
    (findMarker i b = none → ∀ l, ¬ MarkerAt b l) := by
  induction b generalizing i with
  | nil => simp [findMarker, MarkerAt]
  | cons x b ih =>
    cases b with
    | nil => simp [findMarker, MarkerAt]
    | cons y rest =>
      have hs : ∀ m, MarkerAt (x :: y :: rest) (m + 1) ↔ MarkerAt (y :: rest) m := fun m => by
        have := markerAt_drop (x :: y :: rest) 1 m
        rw [Nat.add_comm] at this; exact this.symm
      by_cases h : x = Config.sync0 ∧ y = Config.sync1
      · rw [findMarker, if_pos h]
        refine ⟨fun j hj => ⟨0, (Option.some.inj hj).symm, ⟨by simp, h.1, h.2⟩, by simp⟩, by simp⟩
      · rw [findMarker, if_neg h]
        have h0 : ¬ MarkerAt (x :: y :: rest) 0 := fun hm => h ⟨hm.2.1, hm.2.2⟩
        obtain ⟨h1, h2⟩ := ih (i + 1)
        constructor
        · intro j hj
          obtain ⟨l, rfl, hm, hl⟩ := h1 j hj
          refine ⟨l + 1, by omega, (hs l).2 hm, fun m hml => ?_⟩
          cases m with
          | zero => exact h0
          | succ m => exact fun hmm => hl m (by omega) ((hs m).1 hmm)
        · intro hn l
          cases l with
          | zero => exact h0
          | succ l => exact fun hmm => h2 hn l ((hs l).1 hmm)

/-- LOCATE on an unaligned buffer of at least 5 bytes (R133). -/
theorem locator_unaligned {cfg : Params} {b : List Byte} (h5 : 5 ≤ b.length) (ha : ¬ MarkerAt b 0) :
    (∃ k, locator cfg b = .skip k ∧ 1 ≤ k ∧ MarkerAt b k ∧ ∀ m, m < k → ¬ MarkerAt b m) ∨
    (locator cfg b = .skip b.length ∧ ∀ m, ¬ MarkerAt b m) := by
  have ha' : aligned b = false := by
    rw [← Bool.not_eq_true, aligned_iff (by omega)]; exact ha
  have hs := findMarker_spec 1 (b.drop 1)
  have hm : ∀ l, MarkerAt (b.drop 1) l ↔ MarkerAt b (l + 1) := fun l => by rw [markerAt_drop, Nat.add_comm]
  rw [locator, if_neg (by simp; omega), if_pos ha']
  cases hf : findMarker 1 (b.drop 1) with
  | some j =>
    obtain ⟨l, rfl, hml, hl⟩ := hs.1 j hf
    left
    refine ⟨1 + l, rfl, by omega, by rw [Nat.add_comm]; exact (hm l).1 hml, fun m hmk => ?_⟩
    cases m with
    | zero => exact ha
    | succ m => exact fun h => hl m (by omega) ((hm m).2 h)
  | none =>
    right
    refine ⟨rfl, fun m => ?_⟩
    cases m with
    | zero => exact ha
    | succ m => exact fun h => hs.2 hf m ((hm m).2 h)

/-- LOCATE on an aligned buffer of at least 5 bytes (R134 to R137). -/
theorem locator_aligned {cfg : Params} {b : List Byte} (h5 : 5 ≤ b.length) (ha : MarkerAt b 0) :
    locator cfg b =
      if b.length < totalLen b then .needMore
      else match packetFault cfg (coveredOf (b.take (totalLen b))) (ckFieldOf (b.take (totalLen b))) with
        | some (e, info) => .fatal e info
        | none => .emit (b.take (totalLen b)) (totalLen b) := by
  have ha' : aligned b = true := (aligned_iff (by omega)).2 ha
  have h1 : ¬ b.length < Config.hdrLen := by simp; omega
  have h2 : ¬ aligned b = false := by simp [ha']
  exact (if_neg h1).trans ((if_neg h2).trans rfl)

/-- The six steps as cases, with what each says of the buffer (R131 to R137). -/
theorem locator_cases (cfg : Params) (b : List Byte) :
    (b.length < 5 ∧ locator cfg b = .needMore) ∨
    (5 ≤ b.length ∧ ¬ MarkerAt b 0 ∧ ∃ k, locator cfg b = .skip k ∧ 1 ≤ k ∧ k ≤ b.length) ∨
    (5 ≤ b.length ∧ MarkerAt b 0 ∧ b.length < totalLen b ∧ locator cfg b = .needMore) ∨
    (5 ≤ b.length ∧ MarkerAt b 0 ∧ totalLen b ≤ b.length ∧ ∃ e info,
      packetFault cfg (coveredOf (b.take (totalLen b))) (ckFieldOf (b.take (totalLen b))) = some (e, info) ∧
      locator cfg b = .fatal e info) ∨
    (5 ≤ b.length ∧ MarkerAt b 0 ∧ totalLen b ≤ b.length ∧
      packetFault cfg (coveredOf (b.take (totalLen b))) (ckFieldOf (b.take (totalLen b))) = none ∧
      locator cfg b = .emit (b.take (totalLen b)) (totalLen b)) := by
  by_cases h5 : b.length < 5
  · exact .inl ⟨h5, by rw [locator, if_pos h5]⟩
  by_cases ha : MarkerAt b 0
  · have e := locator_aligned (cfg := cfg) (by omega) ha
    by_cases hT : b.length < totalLen b
    · rw [if_pos hT] at e
      exact .inr (.inr (.inl ⟨by omega, ha, hT, e⟩))
    rw [if_neg hT] at e
    cases hf : packetFault cfg (coveredOf (b.take (totalLen b))) (ckFieldOf (b.take (totalLen b))) with
    | none =>
      rw [hf] at e
      exact .inr (.inr (.inr (.inr ⟨by omega, ha, by omega, rfl, e⟩)))
    | some d =>
      rw [hf] at e
      exact .inr (.inr (.inr (.inl ⟨by omega, ha, by omega, d.1, d.2, rfl, e⟩)))
  · refine .inr (.inl ⟨by omega, ha, ?_⟩)
    rcases locator_unaligned (cfg := cfg) (by omega) ha with ⟨k, he, h1, hm, -⟩ | ⟨he, -⟩
    · exact ⟨k, he, h1, by have := hm.1; omega⟩
    · exact ⟨_, he, by omega, le_rfl⟩

/-- The parts of the packet at the head of an aligned, complete buffer rebuild it (30_encoding.md R90). -/
theorem packet_at_head {b : List Byte} (h5 : 5 ≤ b.length) (ha : MarkerAt b 0) (hT : totalLen b ≤ b.length) :
    ∃ k q ck, q.length ≤ 65535 ∧ b.take (totalLen b) = packetBytes k q ck ∧ totalLen b = 7 + q.length ∧
      k = byteAt b 2 ∧ q = slice b 5 (5 + payloadLen b) ∧ ck = le16 b (5 + payloadLen b) := by
  have h7 := totalLen_eq b
  have hl : (b.take (totalLen b)).length = totalLen b := by simp; omega
  have hN := payloadLen_take b (n := totalLen b) (by omega)
  have ha' : aligned (b.take (totalLen b)) = true := by
    rw [aligned_take b (by omega), aligned_iff (by omega)]; exact ha
  have hb := packetBytes_of_parts ha' (by rw [hl, totalLen_take b (by omega)])
  have hq : (slice b 5 (5 + payloadLen b)).length = payloadLen b := by rw [slice_length b (by omega)]; omega
  refine ⟨_, _, _, ?_, hb.symm, ?_, ?_, ?_, ?_⟩
  · rw [hN, slice_take b (by omega), hq]; have := payloadLen_lt b; omega
  · rw [hN, slice_take b (by omega), hq]; omega
  · rw [byteAt_take b (by omega)]
  · rw [hN, slice_take b (by omega)]
  · rw [ckFieldOf, hN]
    show le16 (b.take (totalLen b)) (5 + payloadLen b) = _
    rw [le16_take b (by omega)]

/-- Step 4 is reached exactly on an aligned, complete packet (R135). -/
theorem reachesChecksum_iff (b : List Byte) :
    reachesChecksum b = true ↔ (5 ≤ b.length ∧ MarkerAt b 0 ∧ totalLen b ≤ b.length) := by
  simp only [reachesChecksum, Bool.and_eq_true, decide_eq_true_eq]
  constructor
  · rintro ⟨⟨h1, h2⟩, h3⟩; have h5 : 5 ≤ b.length := h1; exact ⟨h5, (aligned_iff (by omega)).1 h2, h3⟩
  · rintro ⟨h1, h2, h3⟩; exact ⟨⟨h1, (aligned_iff (by omega)).2 h2⟩, h3⟩

/-- The covered range of the packet at the head (30_encoding.md R93). -/
theorem coveredOf_take (b : List Byte) : coveredOf (b.take (totalLen b)) = slice b 2 (5 + payloadLen b) := by
  have := totalLen_eq b
  rw [coveredOf, payloadLen_take b (by omega), slice_take]
  simp only [Config.hdrLen]; omega

/-- The checksum field of the packet at the head (30_encoding.md R90). -/
theorem ckFieldOf_take (b : List Byte) : ckFieldOf (b.take (totalLen b)) = le16 b (5 + payloadLen b) := by
  have := totalLen_eq b
  rw [ckFieldOf, payloadLen_take b (by omega), le16_take]
  simp only [Config.hdrLen]; omega

/-- Checksum first, then shape (60_exceptions.md R228). -/
theorem packetFault_eq (cfg : Params) (k : Byte) (q : List Byte) (ck : Word16) :
    packetFault cfg (covered k q) ck = if checksum (covered k q) = ck then shapeFault cfg k q
      else some (.checksum, ((checksum (covered k q)).toNat, ck.toNat)) := rfl

/-- The covered range is kind, length field, payload (30_encoding.md R93). -/
theorem slice_head_covered (b : List Byte) (h5 : 5 ≤ b.length) (ha : MarkerAt b 0) (hT : totalLen b ≤ b.length) :
   slice b 2 (5 + payloadLen b) = covered (byteAt b 2) (slice b 5 (5 + payloadLen b)) := by
  obtain ⟨k,q,ck,hq,hp,hl,rfl,rfl,rfl⟩ := packet_at_head h5 ha hT
  rw [← coveredOf_take, hp, coveredOf_packetBytes _ _ hq]

/-- What `EMIT` says of the buffer. -/
theorem locator_emit {cfg b p t} (h : locator cfg b = .emit p t) :
   5 ≤ b.length ∧ MarkerAt b 0 ∧ totalLen b ≤ b.length ∧ t = totalLen b ∧ p = b.take t ∧
   packetFault cfg (coveredOf p) (ckFieldOf p) = none := by
  rcases locator_cases cfg b with ⟨_,h'⟩|⟨_,_,k,h',_⟩|⟨_,_,_,h'⟩|⟨_,_,_,e,i,_,h'⟩|
    ⟨a,b',c,d,h'⟩ <;> rw [h'] at h
  · cases h
  · cases h
  · cases h
  · cases h
  · cases h; exact ⟨a,b',c,rfl,rfl,d⟩

/-- What `SKIP` says of the buffer. -/
theorem locator_skip {cfg b k} (h : locator cfg b = .skip k) : 5 ≤ b.length ∧ ¬ MarkerAt b 0 := by
  rcases locator_cases cfg b with ⟨_,h'⟩|⟨h5,ha,k,h',_⟩|⟨_,_,_,h'⟩|⟨_,_,_,e,i,_,h'⟩|
    ⟨a,b',c,d,h'⟩ <;> rw [h'] at h
  · cases h
  · exact ⟨h5, ha⟩
  · cases h
  · cases h
  · cases h

/-- A valid packet is a packet item with its right checksum and shape. -/
theorem validPacket_parts {cfg v} (h : ValidPacket cfg v) :
    ∃ k q, q.length ≤ 65535 ∧ v = packetBytes k q (checksum (covered k q)) ∧ shapeFault cfg k q = none := by
  obtain ⟨h5, ha, hT, hl, hp, hf⟩ := locator_emit h
  obtain ⟨k,q,ck,hq,hp',hl',_⟩ := packet_at_head h5 ha hT
  rw [← hl, ← hp] at hp'
  rw [hp', coveredOf_packetBytes _ _ hq, ckFieldOf_packetBytes _ _ hq, packetFault_eq] at hf
  split_ifs at hf with hc
  exact ⟨k,q,hq,by rw [hp', hc], hf⟩

/-- LOCATE on a packet with anything behind it. -/
theorem locator_packet (cfg : Params) (k : Byte) (q : List Byte) (ck : Word16) (rest : List Byte)
    (hq : q.length ≤ 65535) :
    locator cfg (packetBytes k q ck ++ rest) = match packetFault cfg (covered k q) ck with
        | some (e, info) => .fatal e info
        | none => .emit (packetBytes k q ck) (7 + q.length) := by
  have hT := totalLen_packetBytes k ck rest hq
  have hl := packetBytes_length k q ck
  have ha : MarkerAt (packetBytes k q ck ++ rest) 0 := (aligned_iff (by simp; omega)).1 (aligned_packetBytes _ _ _ _)
  have ht : (packetBytes k q ck ++ rest).take (7 + q.length) = packetBytes k q ck := by rw [← hl, List.take_left]
  rw [locator_aligned (by simp; omega) ha, if_neg (by simp [hT]), hT, ht, 
    coveredOf_packetBytes _ _ hq, ckFieldOf_packetBytes _ _ hq]

end Sys2Proof
end

