-- ==== Sys2Proof/Laws/State.lean ====
section
/-! SUPPORT. One lemma per field of State per named operation, so that no proof unfolds a record update. -/

namespace Sys2Proof.Machine

/-! ### setCk -/

@[simp] theorem setCk_cfg (ab : Byte × Byte) (s : State) : (setCk ab s).cfg = s.cfg := rfl
@[simp] theorem setCk_st (ab : Byte × Byte) (s : State) : (setCk ab s).st = s.st := rfl
@[simp] theorem setCk_err (ab : Byte × Byte) (s : State) : (setCk ab s).err = s.err := rfl
@[simp] theorem setCk_errInfo (ab : Byte × Byte) (s : State) : (setCk ab s).errInfo = s.errInfo := rfl
@[simp] theorem setCk_buf (ab : Byte × Byte) (s : State) : (setCk ab s).buf = s.buf := rfl
@[simp] theorem setCk_pos (ab : Byte × Byte) (s : State) : (setCk ab s).pos = s.pos := rfl
@[simp] theorem setCk_phase (ab : Byte × Byte) (s : State) : (setCk ab s).phase = s.phase := rfl
@[simp] theorem setCk_kind (ab : Byte × Byte) (s : State) : (setCk ab s).kind = s.kind := rfl
@[simp] theorem setCk_pkt (ab : Byte × Byte) (s : State) : (setCk ab s).pkt = s.pkt := rfl
@[simp] theorem setCk_pktLen (ab : Byte × Byte) (s : State) : (setCk ab s).pktLen = s.pktLen := rfl
@[simp] theorem setCk_val (ab : Byte × Byte) (s : State) : (setCk ab s).val = s.val := rfl
@[simp] theorem setCk_svCur (ab : Byte × Byte) (s : State) : (setCk ab s).svCur = s.svCur := rfl
@[simp] theorem setCk_svCnt (ab : Byte × Byte) (s : State) : (setCk ab s).svCnt = s.svCnt := rfl
@[simp] theorem setCk_ckA (ab : Byte × Byte) (s : State) : (setCk ab s).ckA = ab.1 := rfl
@[simp] theorem setCk_ckB (ab : Byte × Byte) (s : State) : (setCk ab s).ckB = ab.2 := rfl
@[simp] theorem setCk_deadline (ab : Byte × Byte) (s : State) : (setCk ab s).deadline = s.deadline := rfl
@[simp] theorem setCk_resp (ab : Byte × Byte) (s : State) : (setCk ab s).resp = s.resp := rfl
@[simp] theorem setCk_rdReq (ab : Byte × Byte) (s : State) : (setCk ab s).rdReq = s.rdReq := rfl
@[simp] theorem setCk_unitOut (ab : Byte × Byte) (s : State) : (setCk ab s).unitOut = s.unitOut := rfl
@[simp] theorem setCk_hostQ (ab : Byte × Byte) (s : State) : (setCk ab s).hostQ = s.hostQ := rfl
@[simp] theorem setCk_srcQ (ab : Byte × Byte) (s : State) : (setCk ab s).srcQ = s.srcQ := rfl
@[simp] theorem setCk_freeCtr (ab : Byte × Byte) (s : State) : (setCk ab s).freeCtr = s.freeCtr := rfl

/-! ### answer -/

@[simp] theorem answer_cfg (r : Response) (s : State) : (answer r s).cfg = s.cfg := rfl
@[simp] theorem answer_st (r : Response) (s : State) : (answer r s).st = s.st := rfl
@[simp] theorem answer_err (r : Response) (s : State) : (answer r s).err = s.err := rfl
@[simp] theorem answer_errInfo (r : Response) (s : State) : (answer r s).errInfo = s.errInfo := rfl
@[simp] theorem answer_buf (r : Response) (s : State) : (answer r s).buf = s.buf := rfl
@[simp] theorem answer_pos (r : Response) (s : State) : (answer r s).pos = s.pos := rfl
@[simp] theorem answer_phase (r : Response) (s : State) : (answer r s).phase = s.phase := rfl
@[simp] theorem answer_kind (r : Response) (s : State) : (answer r s).kind = s.kind := rfl
@[simp] theorem answer_pkt (r : Response) (s : State) : (answer r s).pkt = s.pkt := rfl
@[simp] theorem answer_pktLen (r : Response) (s : State) : (answer r s).pktLen = s.pktLen := rfl
@[simp] theorem answer_val (r : Response) (s : State) : (answer r s).val = s.val := rfl
@[simp] theorem answer_svCur (r : Response) (s : State) : (answer r s).svCur = s.svCur := rfl
@[simp] theorem answer_svCnt (r : Response) (s : State) : (answer r s).svCnt = s.svCnt := rfl
@[simp] theorem answer_ckA (r : Response) (s : State) : (answer r s).ckA = s.ckA := rfl
@[simp] theorem answer_ckB (r : Response) (s : State) : (answer r s).ckB = s.ckB := rfl
@[simp] theorem answer_deadline (r : Response) (s : State) : (answer r s).deadline = s.deadline := rfl
@[simp] theorem answer_resp (r : Response) (s : State) : (answer r s).resp = some r := rfl
@[simp] theorem answer_rdReq (r : Response) (s : State) : (answer r s).rdReq = s.rdReq := rfl
@[simp] theorem answer_unitOut (r : Response) (s : State) : (answer r s).unitOut = s.unitOut := rfl
@[simp] theorem answer_hostQ (r : Response) (s : State) : (answer r s).hostQ = s.hostQ := rfl
@[simp] theorem answer_srcQ (r : Response) (s : State) : (answer r s).srcQ = s.srcQ := rfl
@[simp] theorem answer_freeCtr (r : Response) (s : State) : (answer r s).freeCtr = s.freeCtr := rfl

/-! ### finish -/

@[simp] theorem finish_cfg (r : Response) (s : State) : (finish r s).cfg = s.cfg := rfl
@[simp] theorem finish_st (r : Response) (s : State) : (finish r s).st = s.st := rfl
@[simp] theorem finish_err (r : Response) (s : State) : (finish r s).err = s.err := rfl
@[simp] theorem finish_errInfo (r : Response) (s : State) : (finish r s).errInfo = s.errInfo := rfl
@[simp] theorem finish_buf (r : Response) (s : State) : (finish r s).buf = s.buf := rfl
@[simp] theorem finish_pos (r : Response) (s : State) : (finish r s).pos = s.pos := rfl
@[simp] theorem finish_phase (r : Response) (s : State) : (finish r s).phase = .ready := rfl
@[simp] theorem finish_kind (r : Response) (s : State) : (finish r s).kind = s.kind := rfl
@[simp] theorem finish_pkt (r : Response) (s : State) : (finish r s).pkt = s.pkt := rfl
@[simp] theorem finish_pktLen (r : Response) (s : State) : (finish r s).pktLen = s.pktLen := rfl
@[simp] theorem finish_val (r : Response) (s : State) : (finish r s).val = s.val := rfl
@[simp] theorem finish_svCur (r : Response) (s : State) : (finish r s).svCur = s.svCur := rfl
@[simp] theorem finish_svCnt (r : Response) (s : State) : (finish r s).svCnt = s.svCnt := rfl
@[simp] theorem finish_ckA (r : Response) (s : State) : (finish r s).ckA = s.ckA := rfl
@[simp] theorem finish_ckB (r : Response) (s : State) : (finish r s).ckB = s.ckB := rfl
@[simp] theorem finish_deadline (r : Response) (s : State) : (finish r s).deadline = none := rfl
@[simp] theorem finish_resp (r : Response) (s : State) : (finish r s).resp = some r := rfl
@[simp] theorem finish_rdReq (r : Response) (s : State) : (finish r s).rdReq = s.rdReq := rfl
@[simp] theorem finish_unitOut (r : Response) (s : State) : (finish r s).unitOut = s.unitOut := rfl
@[simp] theorem finish_hostQ (r : Response) (s : State) : (finish r s).hostQ = s.hostQ := rfl
@[simp] theorem finish_srcQ (r : Response) (s : State) : (finish r s).srcQ = s.srcQ := rfl
@[simp] theorem finish_freeCtr (r : Response) (s : State) : (finish r s).freeCtr = s.freeCtr := rfl

/-! ### discard -/

@[simp] theorem discard_cfg (k : Nat) (s : State) : (discard k s).cfg = s.cfg := rfl
@[simp] theorem discard_st (k : Nat) (s : State) : (discard k s).st = s.st := rfl
@[simp] theorem discard_err (k : Nat) (s : State) : (discard k s).err = s.err := rfl
@[simp] theorem discard_errInfo (k : Nat) (s : State) : (discard k s).errInfo = s.errInfo := rfl
@[simp] theorem discard_buf (k : Nat) (s : State) : (discard k s).buf = s.buf.drop k := rfl
@[simp] theorem discard_pos (k : Nat) (s : State) : (discard k s).pos = s.pos + k := rfl
@[simp] theorem discard_phase (k : Nat) (s : State) : (discard k s).phase = s.phase := rfl
@[simp] theorem discard_kind (k : Nat) (s : State) : (discard k s).kind = s.kind := rfl
@[simp] theorem discard_pkt (k : Nat) (s : State) : (discard k s).pkt = s.pkt := rfl
@[simp] theorem discard_pktLen (k : Nat) (s : State) : (discard k s).pktLen = s.pktLen := rfl
@[simp] theorem discard_val (k : Nat) (s : State) : (discard k s).val = s.val := rfl
@[simp] theorem discard_svCur (k : Nat) (s : State) : (discard k s).svCur = s.svCur := rfl
@[simp] theorem discard_svCnt (k : Nat) (s : State) : (discard k s).svCnt = s.svCnt := rfl
@[simp] theorem discard_ckA (k : Nat) (s : State) : (discard k s).ckA = s.ckA := rfl
@[simp] theorem discard_ckB (k : Nat) (s : State) : (discard k s).ckB = s.ckB := rfl
@[simp] theorem discard_deadline (k : Nat) (s : State) : (discard k s).deadline = s.deadline := rfl
@[simp] theorem discard_resp (k : Nat) (s : State) : (discard k s).resp = s.resp := rfl
@[simp] theorem discard_rdReq (k : Nat) (s : State) : (discard k s).rdReq = s.rdReq := rfl
@[simp] theorem discard_unitOut (k : Nat) (s : State) : (discard k s).unitOut = s.unitOut := rfl
@[simp] theorem discard_hostQ (k : Nat) (s : State) : (discard k s).hostQ = s.hostQ := rfl
@[simp] theorem discard_srcQ (k : Nat) (s : State) : (discard k s).srcQ = s.srcQ := rfl
@[simp] theorem discard_freeCtr (k : Nat) (s : State) : (discard k s).freeCtr = s.freeCtr := rfl

/-! ### deliver -/

@[simp] theorem deliver_cfg (c : List Byte) (s : State) : (deliver c s).cfg = s.cfg := rfl
@[simp] theorem deliver_st (c : List Byte) (s : State) : (deliver c s).st = s.st := rfl
@[simp] theorem deliver_err (c : List Byte) (s : State) : (deliver c s).err = s.err := rfl
@[simp] theorem deliver_errInfo (c : List Byte) (s : State) : (deliver c s).errInfo = s.errInfo := rfl
@[simp] theorem deliver_buf (c : List Byte) (s : State) : (deliver c s).buf = s.buf ++ c := rfl
@[simp] theorem deliver_pos (c : List Byte) (s : State) : (deliver c s).pos = s.pos := rfl
@[simp] theorem deliver_phase (c : List Byte) (s : State) : (deliver c s).phase = .run := rfl
@[simp] theorem deliver_kind (c : List Byte) (s : State) : (deliver c s).kind = s.kind := rfl
@[simp] theorem deliver_pkt (c : List Byte) (s : State) : (deliver c s).pkt = s.pkt := rfl
@[simp] theorem deliver_pktLen (c : List Byte) (s : State) : (deliver c s).pktLen = s.pktLen := rfl
@[simp] theorem deliver_val (c : List Byte) (s : State) : (deliver c s).val = s.val := rfl
@[simp] theorem deliver_svCur (c : List Byte) (s : State) : (deliver c s).svCur = s.svCur := rfl
@[simp] theorem deliver_svCnt (c : List Byte) (s : State) : (deliver c s).svCnt = s.svCnt := rfl
@[simp] theorem deliver_ckA (c : List Byte) (s : State) : (deliver c s).ckA = s.ckA := rfl
@[simp] theorem deliver_ckB (c : List Byte) (s : State) : (deliver c s).ckB = s.ckB := rfl
@[simp] theorem deliver_deadline (c : List Byte) (s : State) : (deliver c s).deadline = s.deadline := rfl
@[simp] theorem deliver_resp (c : List Byte) (s : State) : (deliver c s).resp = s.resp := rfl
@[simp] theorem deliver_rdReq (c : List Byte) (s : State) : (deliver c s).rdReq = none := rfl
@[simp] theorem deliver_unitOut (c : List Byte) (s : State) : (deliver c s).unitOut = s.unitOut := rfl
@[simp] theorem deliver_hostQ (c : List Byte) (s : State) : (deliver c s).hostQ = s.hostQ := rfl
@[simp] theorem deliver_srcQ (c : List Byte) (s : State) : (deliver c s).srcQ = s.srcQ := rfl
@[simp] theorem deliver_freeCtr (c : List Byte) (s : State) : (deliver c s).freeCtr = s.freeCtr := rfl

/-! ### requestRead -/

@[simp] theorem requestRead_cfg (s : State) : (requestRead s).cfg = s.cfg := rfl
@[simp] theorem requestRead_st (s : State) : (requestRead s).st = s.st := rfl
@[simp] theorem requestRead_err (s : State) : (requestRead s).err = s.err := rfl
@[simp] theorem requestRead_errInfo (s : State) : (requestRead s).errInfo = s.errInfo := rfl
@[simp] theorem requestRead_buf (s : State) : (requestRead s).buf = s.buf := rfl
@[simp] theorem requestRead_pos (s : State) : (requestRead s).pos = s.pos := rfl
@[simp] theorem requestRead_phase (s : State) : (requestRead s).phase = .waitSrc := rfl
@[simp] theorem requestRead_kind (s : State) : (requestRead s).kind = s.kind := rfl
@[simp] theorem requestRead_pkt (s : State) : (requestRead s).pkt = s.pkt := rfl
@[simp] theorem requestRead_pktLen (s : State) : (requestRead s).pktLen = s.pktLen := rfl
@[simp] theorem requestRead_val (s : State) : (requestRead s).val = s.val := rfl
@[simp] theorem requestRead_svCur (s : State) : (requestRead s).svCur = s.svCur := rfl
@[simp] theorem requestRead_svCnt (s : State) : (requestRead s).svCnt = s.svCnt := rfl
@[simp] theorem requestRead_ckA (s : State) : (requestRead s).ckA = s.ckA := rfl
@[simp] theorem requestRead_ckB (s : State) : (requestRead s).ckB = s.ckB := rfl
@[simp] theorem requestRead_deadline (s : State) : (requestRead s).deadline = s.deadline := rfl
@[simp] theorem requestRead_resp (s : State) : (requestRead s).resp = s.resp := rfl
@[simp] theorem requestRead_rdReq (s : State) : (requestRead s).rdReq = some { deadline := s.deadline } := rfl
@[simp] theorem requestRead_unitOut (s : State) : (requestRead s).unitOut = s.unitOut := rfl
@[simp] theorem requestRead_hostQ (s : State) : (requestRead s).hostQ = s.hostQ := rfl
@[simp] theorem requestRead_srcQ (s : State) : (requestRead s).srcQ = s.srcQ := rfl
@[simp] theorem requestRead_freeCtr (s : State) : (requestRead s).freeCtr = s.freeCtr := rfl

/-! ### closeRead -/

@[simp] theorem closeRead_cfg (s : State) : (closeRead s).cfg = s.cfg := rfl
@[simp] theorem closeRead_st (s : State) : (closeRead s).st = s.st := rfl
@[simp] theorem closeRead_err (s : State) : (closeRead s).err = s.err := rfl
@[simp] theorem closeRead_errInfo (s : State) : (closeRead s).errInfo = s.errInfo := rfl
@[simp] theorem closeRead_buf (s : State) : (closeRead s).buf = s.buf := rfl
@[simp] theorem closeRead_pos (s : State) : (closeRead s).pos = s.pos := rfl
@[simp] theorem closeRead_phase (s : State) : (closeRead s).phase = s.phase := rfl
@[simp] theorem closeRead_kind (s : State) : (closeRead s).kind = s.kind := rfl
@[simp] theorem closeRead_pkt (s : State) : (closeRead s).pkt = s.pkt := rfl
@[simp] theorem closeRead_pktLen (s : State) : (closeRead s).pktLen = s.pktLen := rfl
@[simp] theorem closeRead_val (s : State) : (closeRead s).val = s.val := rfl
@[simp] theorem closeRead_svCur (s : State) : (closeRead s).svCur = s.svCur := rfl
@[simp] theorem closeRead_svCnt (s : State) : (closeRead s).svCnt = s.svCnt := rfl
@[simp] theorem closeRead_ckA (s : State) : (closeRead s).ckA = s.ckA := rfl
@[simp] theorem closeRead_ckB (s : State) : (closeRead s).ckB = s.ckB := rfl
@[simp] theorem closeRead_deadline (s : State) : (closeRead s).deadline = s.deadline := rfl
@[simp] theorem closeRead_resp (s : State) : (closeRead s).resp = s.resp := rfl
@[simp] theorem closeRead_rdReq (s : State) : (closeRead s).rdReq = none := rfl
@[simp] theorem closeRead_unitOut (s : State) : (closeRead s).unitOut = s.unitOut := rfl
@[simp] theorem closeRead_hostQ (s : State) : (closeRead s).hostQ = s.hostQ := rfl
@[simp] theorem closeRead_srcQ (s : State) : (closeRead s).srcQ = s.srcQ := rfl
@[simp] theorem closeRead_freeCtr (s : State) : (closeRead s).freeCtr = s.freeCtr := rfl

/-! ### releaseHeld -/

@[simp] theorem releaseHeld_cfg (s : State) : (releaseHeld s).cfg = s.cfg := rfl
@[simp] theorem releaseHeld_st (s : State) : (releaseHeld s).st = s.st := rfl
@[simp] theorem releaseHeld_err (s : State) : (releaseHeld s).err = s.err := rfl
@[simp] theorem releaseHeld_errInfo (s : State) : (releaseHeld s).errInfo = s.errInfo := rfl
@[simp] theorem releaseHeld_buf (s : State) : (releaseHeld s).buf = s.buf := rfl
@[simp] theorem releaseHeld_pos (s : State) : (releaseHeld s).pos = s.pos := rfl
@[simp] theorem releaseHeld_phase (s : State) : (releaseHeld s).phase = s.phase := rfl
@[simp] theorem releaseHeld_kind (s : State) : (releaseHeld s).kind = Config.freeKind s.freeCtr := rfl
@[simp] theorem releaseHeld_pkt (s : State) : (releaseHeld s).pkt = Config.freePkt s.freeCtr := rfl
@[simp] theorem releaseHeld_pktLen (s : State) : (releaseHeld s).pktLen = Config.freePktLen s.freeCtr := rfl
@[simp] theorem releaseHeld_val (s : State) : (releaseHeld s).val = Config.freeVal s.freeCtr := rfl
@[simp] theorem releaseHeld_svCur (s : State) : (releaseHeld s).svCur = Config.freeSvCur s.freeCtr := rfl
@[simp] theorem releaseHeld_svCnt (s : State) : (releaseHeld s).svCnt = Config.freeSvCnt s.freeCtr := rfl
@[simp] theorem releaseHeld_ckA (s : State) : (releaseHeld s).ckA = s.ckA := rfl
@[simp] theorem releaseHeld_ckB (s : State) : (releaseHeld s).ckB = s.ckB := rfl
@[simp] theorem releaseHeld_deadline (s : State) : (releaseHeld s).deadline = s.deadline := rfl
@[simp] theorem releaseHeld_resp (s : State) : (releaseHeld s).resp = s.resp := rfl
@[simp] theorem releaseHeld_rdReq (s : State) : (releaseHeld s).rdReq = s.rdReq := rfl
@[simp] theorem releaseHeld_unitOut (s : State) : (releaseHeld s).unitOut = s.unitOut := rfl
@[simp] theorem releaseHeld_hostQ (s : State) : (releaseHeld s).hostQ = s.hostQ := rfl
@[simp] theorem releaseHeld_srcQ (s : State) : (releaseHeld s).srcQ = s.srcQ := rfl
@[simp] theorem releaseHeld_freeCtr (s : State) : (releaseHeld s).freeCtr = s.freeCtr + 1 := rfl

/-! ### trap -/

@[simp] theorem trap_cfg (e : ErrCode) (info : Nat × Nat) (s : State) : (trap e info s).cfg = s.cfg := rfl
@[simp] theorem trap_st (e : ErrCode) (info : Nat × Nat) (s : State) : (trap e info s).st = .failed := rfl
@[simp] theorem trap_err (e : ErrCode) (info : Nat × Nat) (s : State) : (trap e info s).err = e := rfl
@[simp] theorem trap_errInfo (e : ErrCode) (info : Nat × Nat) (s : State) : (trap e info s).errInfo = info := rfl
@[simp] theorem trap_buf (e : ErrCode) (info : Nat × Nat) (s : State) : (trap e info s).buf = s.buf := rfl
@[simp] theorem trap_pos (e : ErrCode) (info : Nat × Nat) (s : State) : (trap e info s).pos = s.pos := rfl
@[simp] theorem trap_phase (e : ErrCode) (info : Nat × Nat) (s : State) : (trap e info s).phase = .ready := rfl
@[simp] theorem trap_kind (e : ErrCode) (info : Nat × Nat) (s : State) : (trap e info s).kind = Config.freeKind s.freeCtr :=
  rfl
@[simp] theorem trap_pkt (e : ErrCode) (info : Nat × Nat) (s : State) : (trap e info s).pkt = Config.freePkt s.freeCtr :=
  rfl
@[simp] theorem trap_pktLen (e : ErrCode) (info : Nat × Nat) (s : State) : (trap e info s).pktLen = Config.freePktLen s.freeCtr :=
  rfl
@[simp] theorem trap_val (e : ErrCode) (info : Nat × Nat) (s : State) : (trap e info s).val = Config.freeVal s.freeCtr :=
  rfl
@[simp] theorem trap_svCur (e : ErrCode) (info : Nat × Nat) (s : State) : (trap e info s).svCur = Config.freeSvCur s.freeCtr :=
  rfl
@[simp] theorem trap_svCnt (e : ErrCode) (info : Nat × Nat) (s : State) : (trap e info s).svCnt = Config.freeSvCnt s.freeCtr :=
  rfl
@[simp] theorem trap_ckA (e : ErrCode) (info : Nat × Nat) (s : State) : (trap e info s).ckA = s.ckA := rfl
@[simp] theorem trap_ckB (e : ErrCode) (info : Nat × Nat) (s : State) : (trap e info s).ckB = s.ckB := rfl
@[simp] theorem trap_deadline (e : ErrCode) (info : Nat × Nat) (s : State) : (trap e info s).deadline = none := rfl
@[simp] theorem trap_resp (e : ErrCode) (info : Nat × Nat) (s : State) : (trap e info s).resp = some (.fail e info) :=
  rfl
@[simp] theorem trap_rdReq (e : ErrCode) (info : Nat × Nat) (s : State) : (trap e info s).rdReq = s.rdReq := rfl
@[simp] theorem trap_unitOut (e : ErrCode) (info : Nat × Nat) (s : State) : (trap e info s).unitOut = s.unitOut := rfl
@[simp] theorem trap_hostQ (e : ErrCode) (info : Nat × Nat) (s : State) : (trap e info s).hostQ = s.hostQ := rfl
@[simp] theorem trap_srcQ (e : ErrCode) (info : Nat × Nat) (s : State) : (trap e info s).srcQ = s.srcQ := rfl
@[simp] theorem trap_freeCtr (e : ErrCode) (info : Nat × Nat) (s : State) : (trap e info s).freeCtr = s.freeCtr + 1 :=
  rfl

/-! ### endStream -/

@[simp] theorem endStream_cfg (s : State) : (endStream s).cfg = s.cfg := rfl
@[simp] theorem endStream_st (s : State) : (endStream s).st = .exhausted := rfl
@[simp] theorem endStream_err (s : State) : (endStream s).err = s.err := rfl
@[simp] theorem endStream_errInfo (s : State) : (endStream s).errInfo = s.errInfo := rfl
@[simp] theorem endStream_buf (s : State) : (endStream s).buf = s.buf := rfl
@[simp] theorem endStream_pos (s : State) : (endStream s).pos = s.pos := rfl
@[simp] theorem endStream_phase (s : State) : (endStream s).phase = .ready := rfl
@[simp] theorem endStream_kind (s : State) : (endStream s).kind = Config.freeKind s.freeCtr := rfl
@[simp] theorem endStream_pkt (s : State) : (endStream s).pkt = Config.freePkt s.freeCtr := rfl
@[simp] theorem endStream_pktLen (s : State) : (endStream s).pktLen = Config.freePktLen s.freeCtr := rfl
@[simp] theorem endStream_val (s : State) : (endStream s).val = Config.freeVal s.freeCtr := rfl
@[simp] theorem endStream_svCur (s : State) : (endStream s).svCur = Config.freeSvCur s.freeCtr := rfl
@[simp] theorem endStream_svCnt (s : State) : (endStream s).svCnt = Config.freeSvCnt s.freeCtr := rfl
@[simp] theorem endStream_ckA (s : State) : (endStream s).ckA = s.ckA := rfl
@[simp] theorem endStream_ckB (s : State) : (endStream s).ckB = s.ckB := rfl
@[simp] theorem endStream_deadline (s : State) : (endStream s).deadline = none := rfl
@[simp] theorem endStream_resp (s : State) : (endStream s).resp = some .endOfSequence := rfl
@[simp] theorem endStream_rdReq (s : State) : (endStream s).rdReq = s.rdReq := rfl
@[simp] theorem endStream_unitOut (s : State) : (endStream s).unitOut = s.unitOut := rfl
@[simp] theorem endStream_hostQ (s : State) : (endStream s).hostQ = s.hostQ := rfl
@[simp] theorem endStream_srcQ (s : State) : (endStream s).srcQ = s.srcQ := rfl
@[simp] theorem endStream_freeCtr (s : State) : (endStream s).freeCtr = s.freeCtr + 1 := rfl

/-! ### hold -/

@[simp] theorem hold_cfg (p : List Byte) (v : Value) (s : State) : (hold p v s).cfg = s.cfg := rfl
@[simp] theorem hold_st (p : List Byte) (v : Value) (s : State) : (hold p v s).st = .holding := rfl
@[simp] theorem hold_err (p : List Byte) (v : Value) (s : State) : (hold p v s).err = s.err := rfl
@[simp] theorem hold_errInfo (p : List Byte) (v : Value) (s : State) : (hold p v s).errInfo = s.errInfo := rfl
@[simp] theorem hold_buf (p : List Byte) (v : Value) (s : State) : (hold p v s).buf = s.buf := rfl
@[simp] theorem hold_pos (p : List Byte) (v : Value) (s : State) : (hold p v s).pos = s.pos := rfl
@[simp] theorem hold_phase (p : List Byte) (v : Value) (s : State) : (hold p v s).phase = .ready := rfl
@[simp] theorem hold_kind (p : List Byte) (v : Value) (s : State) : (hold p v s).kind = byteAt p 2 := rfl
@[simp] theorem hold_pkt (p : List Byte) (v : Value) (s : State) : (hold p v s).pkt = p := rfl
@[simp] theorem hold_pktLen (p : List Byte) (v : Value) (s : State) : (hold p v s).pktLen = BitVec.ofNat 17 p.length :=
  rfl
@[simp] theorem hold_val (p : List Byte) (v : Value) (s : State) : (hold p v s).val = v := rfl
@[simp] theorem hold_svCur (p : List Byte) (v : Value) (s : State) : (hold p v s).svCur = (if tag s.cfg (byteAt p 2) = .satelliteList then 0 else s.svCur) :=
  rfl
@[simp] theorem hold_svCnt (p : List Byte) (v : Value) (s : State) : (hold p v s).svCnt = (if tag s.cfg (byteAt p 2) = .satelliteList then byteAt p 9 else s.svCnt) :=
  rfl
@[simp] theorem hold_ckA (p : List Byte) (v : Value) (s : State) : (hold p v s).ckA = s.ckA := rfl
@[simp] theorem hold_ckB (p : List Byte) (v : Value) (s : State) : (hold p v s).ckB = s.ckB := rfl
@[simp] theorem hold_deadline (p : List Byte) (v : Value) (s : State) : (hold p v s).deadline = none := rfl
@[simp] theorem hold_resp (p : List Byte) (v : Value) (s : State) : (hold p v s).resp = some (.ok (tag s.cfg (byteAt p 2)) (byteAt p 2)) :=
  rfl
@[simp] theorem hold_rdReq (p : List Byte) (v : Value) (s : State) : (hold p v s).rdReq = s.rdReq := rfl
@[simp] theorem hold_unitOut (p : List Byte) (v : Value) (s : State) : (hold p v s).unitOut = s.unitOut := rfl
@[simp] theorem hold_hostQ (p : List Byte) (v : Value) (s : State) : (hold p v s).hostQ = s.hostQ := rfl
@[simp] theorem hold_srcQ (p : List Byte) (v : Value) (s : State) : (hold p v s).srcQ = s.srcQ := rfl
@[simp] theorem hold_freeCtr (p : List Byte) (v : Value) (s : State) : (hold p v s).freeCtr = s.freeCtr := rfl

/-! ### rebind -/

@[simp] theorem rebind_cfg (src : List SrcEvent) (rest : List HostEvent) (s : State) : (rebind src rest s).cfg = s.cfg :=
  rfl
@[simp] theorem rebind_st (src : List SrcEvent) (rest : List HostEvent) (s : State) : (rebind src rest s).st = State.reset.st :=
  rfl
@[simp] theorem rebind_err (src : List SrcEvent) (rest : List HostEvent) (s : State) : (rebind src rest s).err = State.reset.err :=
  rfl
@[simp] theorem rebind_errInfo (src : List SrcEvent) (rest : List HostEvent) (s : State) : (rebind src rest s).errInfo = State.reset.errInfo :=
  rfl
@[simp] theorem rebind_buf (src : List SrcEvent) (rest : List HostEvent) (s : State) : (rebind src rest s).buf = State.reset.buf :=
  rfl
@[simp] theorem rebind_pos (src : List SrcEvent) (rest : List HostEvent) (s : State) : (rebind src rest s).pos = State.reset.pos :=
  rfl
@[simp] theorem rebind_phase (src : List SrcEvent) (rest : List HostEvent) (s : State) : (rebind src rest s).phase = State.reset.phase :=
  rfl
@[simp] theorem rebind_kind (src : List SrcEvent) (rest : List HostEvent) (s : State) : (rebind src rest s).kind = State.reset.kind :=
  rfl
@[simp] theorem rebind_pkt (src : List SrcEvent) (rest : List HostEvent) (s : State) : (rebind src rest s).pkt = State.reset.pkt :=
  rfl
@[simp] theorem rebind_pktLen (src : List SrcEvent) (rest : List HostEvent) (s : State) : (rebind src rest s).pktLen = State.reset.pktLen :=
  rfl
@[simp] theorem rebind_val (src : List SrcEvent) (rest : List HostEvent) (s : State) : (rebind src rest s).val = State.reset.val :=
  rfl
@[simp] theorem rebind_svCur (src : List SrcEvent) (rest : List HostEvent) (s : State) : (rebind src rest s).svCur = State.reset.svCur :=
  rfl
@[simp] theorem rebind_svCnt (src : List SrcEvent) (rest : List HostEvent) (s : State) : (rebind src rest s).svCnt = State.reset.svCnt :=
  rfl
@[simp] theorem rebind_ckA (src : List SrcEvent) (rest : List HostEvent) (s : State) : (rebind src rest s).ckA = State.reset.ckA :=
  rfl
@[simp] theorem rebind_ckB (src : List SrcEvent) (rest : List HostEvent) (s : State) : (rebind src rest s).ckB = State.reset.ckB :=
  rfl
@[simp] theorem rebind_deadline (src : List SrcEvent) (rest : List HostEvent) (s : State) : (rebind src rest s).deadline = State.reset.deadline :=
  rfl
@[simp] theorem rebind_resp (src : List SrcEvent) (rest : List HostEvent) (s : State) : (rebind src rest s).resp = State.reset.resp :=
  rfl
@[simp] theorem rebind_rdReq (src : List SrcEvent) (rest : List HostEvent) (s : State) : (rebind src rest s).rdReq = State.reset.rdReq :=
  rfl
@[simp] theorem rebind_unitOut (src : List SrcEvent) (rest : List HostEvent) (s : State) : (rebind src rest s).unitOut = State.reset.unitOut :=
  rfl
@[simp] theorem rebind_hostQ (src : List SrcEvent) (rest : List HostEvent) (s : State) : (rebind src rest s).hostQ = rest :=
  rfl
@[simp] theorem rebind_srcQ (src : List SrcEvent) (rest : List HostEvent) (s : State) : (rebind src rest s).srcQ = src :=
  rfl
@[simp] theorem rebind_freeCtr (src : List SrcEvent) (rest : List HostEvent) (s : State) : (rebind src rest s).freeCtr = s.freeCtr :=
  rfl

/-! ### startAdvance -/

@[simp] theorem startAdvance_cfg (d : Option Token) (s : State) : (startAdvance d s).cfg = s.cfg := rfl
@[simp] theorem startAdvance_st (d : Option Token) (s : State) : (startAdvance d s).st = s.st := rfl
@[simp] theorem startAdvance_err (d : Option Token) (s : State) : (startAdvance d s).err = s.err := rfl
@[simp] theorem startAdvance_errInfo (d : Option Token) (s : State) : (startAdvance d s).errInfo = s.errInfo := rfl
@[simp] theorem startAdvance_buf (d : Option Token) (s : State) : (startAdvance d s).buf = s.buf := rfl
@[simp] theorem startAdvance_pos (d : Option Token) (s : State) : (startAdvance d s).pos = s.pos := rfl
@[simp] theorem startAdvance_phase (d : Option Token) (s : State) : (startAdvance d s).phase = .run := rfl
@[simp] theorem startAdvance_kind (d : Option Token) (s : State) : (startAdvance d s).kind = s.kind := rfl
@[simp] theorem startAdvance_pkt (d : Option Token) (s : State) : (startAdvance d s).pkt = s.pkt := rfl
@[simp] theorem startAdvance_pktLen (d : Option Token) (s : State) : (startAdvance d s).pktLen = s.pktLen := rfl
@[simp] theorem startAdvance_val (d : Option Token) (s : State) : (startAdvance d s).val = s.val := rfl
@[simp] theorem startAdvance_svCur (d : Option Token) (s : State) : (startAdvance d s).svCur = s.svCur := rfl
@[simp] theorem startAdvance_svCnt (d : Option Token) (s : State) : (startAdvance d s).svCnt = s.svCnt := rfl
@[simp] theorem startAdvance_ckA (d : Option Token) (s : State) : (startAdvance d s).ckA = s.ckA := rfl
@[simp] theorem startAdvance_ckB (d : Option Token) (s : State) : (startAdvance d s).ckB = s.ckB := rfl
@[simp] theorem startAdvance_deadline (d : Option Token) (s : State) : (startAdvance d s).deadline = d := rfl
@[simp] theorem startAdvance_resp (d : Option Token) (s : State) : (startAdvance d s).resp = none := rfl
@[simp] theorem startAdvance_rdReq (d : Option Token) (s : State) : (startAdvance d s).rdReq = s.rdReq := rfl
@[simp] theorem startAdvance_unitOut (d : Option Token) (s : State) : (startAdvance d s).unitOut = s.unitOut := rfl
@[simp] theorem startAdvance_hostQ (d : Option Token) (s : State) : (startAdvance d s).hostQ = s.hostQ := rfl
@[simp] theorem startAdvance_srcQ (d : Option Token) (s : State) : (startAdvance d s).srcQ = s.srcQ := rfl
@[simp] theorem startAdvance_freeCtr (d : Option Token) (s : State) : (startAdvance d s).freeCtr = s.freeCtr := rfl

/-! ### locateBuf -/

@[simp] theorem locateBuf_cfg (s : State) : (locateBuf s).cfg = s.cfg := by unfold locateBuf; split <;> rfl
@[simp] theorem locateBuf_st (s : State) : (locateBuf s).st = s.st := by unfold locateBuf; split <;> rfl
@[simp] theorem locateBuf_err (s : State) : (locateBuf s).err = s.err := by unfold locateBuf; split <;> rfl
@[simp] theorem locateBuf_errInfo (s : State) : (locateBuf s).errInfo = s.errInfo :=
  by unfold locateBuf; split <;> rfl
@[simp] theorem locateBuf_buf (s : State) : (locateBuf s).buf = s.buf := by unfold locateBuf; split <;> rfl
@[simp] theorem locateBuf_pos (s : State) : (locateBuf s).pos = s.pos := by unfold locateBuf; split <;> rfl
@[simp] theorem locateBuf_phase (s : State) : (locateBuf s).phase = s.phase := by unfold locateBuf; split <;> rfl
@[simp] theorem locateBuf_kind (s : State) : (locateBuf s).kind = s.kind := by unfold locateBuf; split <;> rfl
@[simp] theorem locateBuf_pkt (s : State) : (locateBuf s).pkt = s.pkt := by unfold locateBuf; split <;> rfl
@[simp] theorem locateBuf_pktLen (s : State) : (locateBuf s).pktLen = s.pktLen := by unfold locateBuf; split <;> rfl
@[simp] theorem locateBuf_val (s : State) : (locateBuf s).val = s.val := by unfold locateBuf; split <;> rfl
@[simp] theorem locateBuf_svCur (s : State) : (locateBuf s).svCur = s.svCur := by unfold locateBuf; split <;> rfl
@[simp] theorem locateBuf_svCnt (s : State) : (locateBuf s).svCnt = s.svCnt := by unfold locateBuf; split <;> rfl
@[simp] theorem locateBuf_ckA (s : State) : (locateBuf s).ckA = (if reachesChecksum s.buf then (ckFold (coveredOf (s.buf.take (totalLen s.buf)))).1 else s.ckA) :=
  by unfold locateBuf; split <;> rfl
@[simp] theorem locateBuf_ckB (s : State) : (locateBuf s).ckB = (if reachesChecksum s.buf then (ckFold (coveredOf (s.buf.take (totalLen s.buf)))).2 else s.ckB) :=
  by unfold locateBuf; split <;> rfl
@[simp] theorem locateBuf_deadline (s : State) : (locateBuf s).deadline = s.deadline :=
  by unfold locateBuf; split <;> rfl
@[simp] theorem locateBuf_resp (s : State) : (locateBuf s).resp = s.resp := by unfold locateBuf; split <;> rfl
@[simp] theorem locateBuf_rdReq (s : State) : (locateBuf s).rdReq = s.rdReq := by unfold locateBuf; split <;> rfl
@[simp] theorem locateBuf_unitOut (s : State) : (locateBuf s).unitOut = some (.located (locator s.cfg s.buf)) := rfl
@[simp] theorem locateBuf_hostQ (s : State) : (locateBuf s).hostQ = s.hostQ := by unfold locateBuf; split <;> rfl
@[simp] theorem locateBuf_srcQ (s : State) : (locateBuf s).srcQ = s.srcQ := by unfold locateBuf; split <;> rfl
@[simp] theorem locateBuf_freeCtr (s : State) : (locateBuf s).freeCtr = s.freeCtr :=
  by unfold locateBuf; split <;> rfl

end Sys2Proof.Machine
end

