-- ==== Sys2Proof/Laws/Ops.lean ====
section
/-! SUPPORT. For each shared operation, once, everything it can do. -/

namespace Sys2Proof

open Sys2Proof.Machine

theorem whenReady_next {t s u : State} : whenReady t s = .next u ↔ s.phase = .ready ∧ u = t := by
  unfold whenReady; split_ifs with h <;> simp [h, eq_comm]

theorem whenAsked_next {t s u : State} : whenAsked t s = .next u ↔ s.phase = .waitSrc ∧ u = t := by
  unfold whenAsked; split_ifs with h <;> simp [h, eq_comm]

theorem whenReady_ready {t s : State} (h : s.phase = .ready) : whenReady t s = .next t := if_pos h
theorem whenAsked_asked {t s : State} (h : s.phase = .waitSrc) : whenAsked t s = .next t := if_pos h

/-- A typed accessor writes its response and nothing else (44_scanner.md R205). -/
theorem accessor_next {mine : Bool} {s u : State} (h : accessor mine s = .next u) :
    s.phase = .ready ∧ ((s.st = .holding ∧ mine = true ∧ u = answer (.value s.val) s) ∨
      (¬ (s.st = .holding ∧ mine = true) ∧ u = answer .invalid s)) := by
  obtain ⟨hp, rfl⟩ := whenReady_next.1 h
  refine ⟨hp, ?_⟩
  by_cases hm : s.st = .holding ∧ mine = true
  · rw [if_pos hm]; exact .inl ⟨hm.1, hm.2, rfl⟩
  · rw [if_neg hm]; exact .inr ⟨hm, rfl⟩

/-- The three ends of a packet: fault before it is consumed, decoder's error after, or held (44_scanner.md R201,
R202). -/
theorem runPacket_next {k : Byte} {q : List Byte} {ck : Word16} {dec : Except ErrDetail Value} {s t : State}
    (h : runPacket k q ck dec s = .next t) :
    s.phase = .run ∧
    ((∃ e info, packetFault s.cfg (covered k q) ck = some (e, info) ∧
        t = trap e info (setCk (ckFold (covered k q)) s)) ∨
     (packetFault s.cfg (covered k q) ck = none ∧ ∃ e info, dec = .error (e, info) ∧
        t = trap e info (discard (7 + q.length) (setCk (ckFold (covered k q)) s))) ∨
     (packetFault s.cfg (covered k q) ck = none ∧ ∃ v, dec = .ok v ∧
        t = hold (packetBytes k q ck) v (discard (7 + q.length) (setCk (ckFold (covered k q)) s)))) := by
  unfold runPacket at h
  split_ifs at h with hp
  refine ⟨hp, ?_⟩
  cases hf : packetFault s.cfg (covered k q) ck with
  | some d =>
    simp only [hf] at h
    exact .inl ⟨d.1, d.2, rfl, by cases h; rfl⟩
  | none =>
    simp only [hf, packetBytes_length] at h
    cases dec with
    | error d => exact .inr (.inl ⟨rfl, d.1, d.2, rfl, by cases h; rfl⟩)
    | ok v => exact .inr (.inr ⟨rfl, v, rfl, by cases h; rfl⟩)

theorem runPacket_fault {k : Byte} {q : List Byte} {ck : Word16} {dec : Except ErrDetail Value} {s : State}
    {e : ErrCode} {info : Nat × Nat} (hp : s.phase = .run)
    (hf : packetFault s.cfg (covered k q) ck = some (e, info)) :
    runPacket k q ck dec s = .next (trap e info (setCk (ckFold (covered k q)) s)) := by
  simp only [runPacket, if_pos hp, hf]

theorem runPacket_error {k : Byte} {q : List Byte} {ck : Word16} {s : State} {e : ErrCode} {info : Nat × Nat}
    (hp : s.phase = .run) (hf : packetFault s.cfg (covered k q) ck = none) :
    runPacket k q ck (.error (e, info)) s =
      .next (trap e info (discard (7 + q.length) (setCk (ckFold (covered k q)) s))) := by
  simp only [runPacket, if_pos hp, hf, packetBytes_length]

theorem runPacket_ok {k : Byte} {q : List Byte} {ck : Word16} {s : State} {v : Value} (hp : s.phase = .run)
    (hf : packetFault s.cfg (covered k q) ck = none) :
    runPacket k q ck (.ok v) s =
      .next (hold (packetBytes k q ck) v (discard (7 + q.length) (setCk (ckFold (covered k q)) s))) := by
  simp only [runPacket, if_pos hp, hf, packetBytes_length]

/-- The decoder a packet instruction uses (42_message_decoders.md R160). -/
def instrDecode : Instr → Except ErrDetail Value
  | .version q _ => decodeVersion q
  | .position q _ => decodePosition q
  | .status q _ => decodeStatus q
  | .dilutionOfPrecision q _ => decodeDop q
  | .velocity q _ => decodeVelocity q
  | .satelliteList q _ => decodeSatlist q
  | .unknown _ q _ => decodeUnknown q
  | _ => .ok (.unknown [])

/-- Every packet instruction is its parts run with its decoder. -/
theorem exec_packet {i : Instr} {s : State} {k : Byte} {q : List Byte} {ck : Word16}
    (h : packetParts s.cfg i = some (k, q, ck)) : exec i s = runPacket k q ck (instrDecode i) s := by
  cases i <;> simp only [packetParts, Option.some.injEq, Prod.mk.injEq, reduceCtorEq] at h <;>
    obtain ⟨rfl, rfl, rfl⟩ := h <;> rfl

/-- The instruction selected by a kind byte has the parts it was built from, and the decoder of R160. -/
theorem kindInstr_parts (cfg : Params) (k : Byte) (q : List Byte) (ck : Word16) :
    packetParts cfg (kindInstr cfg k q ck) = some (k, q, ck) ∧
      instrDecode (kindInstr cfg k q ck) = decodeMessage cfg k q := by
  unfold kindInstr decodeMessage tag
  split_ifs with h1 h2 h3 h4 h5 h6
  · exact ⟨by rw [h1]; rfl, rfl⟩
  · exact ⟨by rw [h2]; rfl, rfl⟩
  · exact ⟨by rw [h3]; rfl, rfl⟩
  · exact ⟨by rw [h4]; rfl, rfl⟩
  · exact ⟨by rw [h5]; rfl, rfl⟩
  · exact ⟨by rw [h6]; rfl, rfl⟩
  · exact ⟨rfl, rfl⟩

/-- Executing the packet LOCATE emitted: consume and decode (44_scanner.md R201). -/
theorem exec_kindInstr {s : State} (k : Byte) (q : List Byte) (ck : Word16) :
    exec (kindInstr s.cfg k q ck) s = runPacket k q ck (decodeMessage s.cfg k q) s := by
  obtain ⟨hp, hd⟩ := kindInstr_parts s.cfg k q ck
  rw [exec_packet hp, hd]

/-- The moves of block and source from `u` (44_scanner.md R195, R209): waiting, a source answer, or the Run step by the
outcome of LOCATE. -/
def InnerMove (u t : State) : Prop :=
  (u.phase = .ready ∧ t = u) ∨
  (u.phase = .waitSrc ∧ u.srcQ = [] ∧ t = u) ∨
  (u.phase = .waitSrc ∧ ∃ e rest, u.srcQ = e :: rest ∧ exec (srcInstr e) { u with srcQ := rest } = .next t) ∨
  (u.phase = .run ∧
    ((locator u.cfg u.buf = .needMore ∧ t = requestRead (locateBuf u)) ∨
     (∃ k, locator u.cfg u.buf = .skip k ∧ t = discard k (locateBuf u)) ∨
     (∃ e info, locator u.cfg u.buf = .fatal e info ∧ t = trap e info (locateBuf u)) ∨
     (∃ p n, locator u.cfg u.buf = .emit p n ∧ exec (packetInstr u.cfg p) (locateBuf u) = .next t)))

/-- What a step does with what it fetched. -/
def runFetched : Fetched → Host.Outcome State Fault Refusal
  | .instr i u => exec i u
  | .settled o => o

theorem step_eq (s : State) : step s = runFetched (fetch s) := by
  unfold step runFetched; split <;> simp_all

theorem fetchInner_cases {u t : State} (h : runFetched (fetchInner u) = .next t) : InnerMove u t := by
  unfold fetchInner at h
  cases hp : u.phase with
  | ready => simp only [hp, runFetched] at h; cases h; exact .inl ⟨hp, rfl⟩
  | waitSrc =>
    simp only [hp, fetchSource] at h
    cases hs : u.srcQ with
    | nil => simp only [hs, runFetched] at h; cases h; exact .inr (.inl ⟨hp, hs, rfl⟩)
    | cons e rest => simp only [hs, runFetched] at h; exact .inr (.inr (.inl ⟨hp, e, rest, hs, by rw [hp]; exact h⟩))
  | run =>
    simp only [hp, fetchRun] at h
    refine .inr (.inr (.inr ⟨hp, ?_⟩))
    cases hl : locator u.cfg u.buf with
    | needMore => simp only [hl, runFetched] at h; cases h; exact .inl ⟨rfl, rfl⟩
    | skip k => simp only [hl, runFetched] at h; cases h; exact .inr (.inl ⟨k, rfl, rfl⟩)
    | fatal e info => simp only [hl, runFetched] at h; cases h; exact .inr (.inr (.inl ⟨e, info, rfl, rfl⟩))
    | emit p n => simp only [hl, runFetched] at h; exact .inr (.inr (.inr ⟨p, n, rfl, h⟩))

/-- Everything a step can do: reset, the host's command at Ready, or a move of block or source, the host's pause
taken. -/
theorem step_cases {s t : State} (h : step s = .next t) :
    (∃ src rest, s.hostQ = .reset src :: rest ∧ t = rebind src rest s) ∨
    (∃ w rest i, s.hostQ = .command w :: rest ∧ s.phase = .ready ∧ decodeHost w = .ok i ∧
      exec i { s with hostQ := rest } = .next t) ∨
    (∃ q, (q = s.hostQ ∨ s.hostQ = .pause :: q) ∧ InnerMove { s with hostQ := q } t) := by
  have stay : runFetched (fetchInner s) = .next t →
      ∃ q, (q = s.hostQ ∨ s.hostQ = .pause :: q) ∧ InnerMove { s with hostQ := q } t :=
    fun hi => ⟨s.hostQ, .inl rfl, fetchInner_cases hi⟩
  rw [step_eq, fetch] at h
  cases hq : s.hostQ with
  | nil => simp only [hq] at h; rw [hq] at stay; exact .inr (.inr (stay h))
  | cons e rest =>
    cases e with
    | reset src => simp only [hq, runFetched] at h; cases h; exact .inl ⟨src, rest, rfl, rfl⟩
    | pause => simp only [hq] at h; exact .inr (.inr ⟨rest, .inr rfl, fetchInner_cases h⟩)
    | command w =>
      simp only [hq] at h
      split_ifs at h with hp
      · unfold fetchCommand at h
        cases hd : decodeHost w with
        | error r => simp only [hd, runFetched] at h; cases h
        | ok i => simp only [hd, runFetched] at h; exact .inr (.inl ⟨w, rest, i, rfl, hp, hd, h⟩)
      · rw [hq] at stay; exact .inr (.inr (stay h))

end Sys2Proof
end

