-- ==== Sys2Proof/Laws/Memory.lean ====
section
/-! SUPPORT. The form of the block's memory (10_state.md R26, R37; log 12): every operation that writes `BUF`, `PKT` or
`PKTLEN` keeps it, and the state after reset has it. -/

namespace Sys2Proof

open Sys2Proof.Machine

theorem memory_wf_iff (s : State) : Memory.wf s = true ↔ (s.st = .holding → s.pkt.length = s.pktLen.toNat) := by
  simp [Memory.wf, imp_iff_not_or]

theorem memory_wf_reset : Memory.wf State.reset = true := rfl

theorem memory_wf_rebind (src : List SrcEvent) (rest : List HostEvent) (s : State) :
    Memory.wf (rebind src rest s) = true := rfl

theorem memory_wf_trap (e : ErrCode) (info : Nat × Nat) (s : State) : Memory.wf (trap e info s) = true := rfl

theorem memory_wf_endStream (s : State) : Memory.wf (endStream s) = true := rfl

/-- A packet of at most `MAX_PAYLOAD` payload bytes fits the 17 bits of `PKTLEN` (10_state.md R26). -/
theorem memory_wf_hold (k : Byte) {q : List Byte} (ck : Word16) (v : Value) (s : State) (h : q.length ≤ 65535) :
    Memory.wf (hold (packetBytes k q ck) v s) = true := by
  rw [memory_wf_iff]; simp; omega

theorem memory_wf_discard (k : Nat) (s : State) : Memory.wf (discard k s) = Memory.wf s := rfl

theorem memory_wf_deliver (c : List Byte) (s : State) : Memory.wf (deliver c s) = Memory.wf s := rfl

theorem memory_wf_locateBuf (s : State) : Memory.wf (locateBuf s) = Memory.wf s := by
  simp only [Memory.wf, locateBuf_st, locateBuf_pkt, locateBuf_pktLen]

end Sys2Proof
end

