-- ==== Sys2Proof/Laws/Moves.lean ====
section
/-! SUPPORT. Everything a step can do, said once: the twelve moves of block, host and source, and the facts about tags
and about the fetch that goes with them. -/

namespace Sys2Proof

open Sys2Proof.Machine

/-- Distinct kind codes have distinct tags (30_encoding.md R94, 00_scope.md R9). -/
theorem tag_of_kinds {cfg : Params} (h : cfg.wf = true) :
    tag cfg cfg.kindVersion = .version ∧ tag cfg cfg.kindPosition = .position ∧ tag cfg cfg.kindStatus = .status ∧
      tag cfg cfg.kindDop = .dilutionOfPrecision ∧ tag cfg cfg.kindVelocity = .velocity ∧
      tag cfg cfg.kindSatlist = .satelliteList := by
  have hd : cfg.kinds.Nodup := by
    simp only [Params.wf, Bool.and_eq_true, decide_eq_true_eq] at h; exact h.1
  simp only [Params.kinds, List.nodup_cons, List.mem_cons, not_or, List.not_mem_nil, not_false_eq_true,
    List.nodup_nil, and_true] at hd
  obtain ⟨⟨h1, h2, h3, h4, h5⟩, ⟨h6, h7, h8, h9⟩, ⟨h10, h11, h12⟩, ⟨h13, h14⟩, h15⟩ := hd
  refine ⟨?_, ?_, ?_, ?_, ?_, ?_⟩ <;>
    simp [tag, Ne.symm h1, Ne.symm h2, Ne.symm h3, Ne.symm h4, Ne.symm h5, Ne.symm h6, Ne.symm h7, Ne.symm h8,
      Ne.symm h9, Ne.symm h10, Ne.symm h11, Ne.symm h12, Ne.symm h13, Ne.symm h14, Ne.symm h15]

theorem tag_of_unknown {cfg : Params} {k : Byte} (h : k ∉ cfg.kinds) : tag cfg k = .unknown k := by
  simp only [Params.kinds, List.mem_cons, List.not_mem_nil, or_false, not_or] at h
  simp [tag, h]

/-- Where the host only waits or holds a command back, block and source move (44_scanner.md R190). -/
theorem fetch_of_waits {s : State} (hw : HostWaits s.hostQ) (hp : s.phase ≠ .ready) : fetch s = fetchInner s := by
  unfold fetch
  match hq : s.hostQ with
  | [] => rfl
  | e :: rest =>
    obtain ⟨w, rfl⟩ := hw e rest hq
    simp [hp]

/-- The moves from `u` (44_scanner.md R190 to R209), each with the conditions under which it is made. -/
inductive Move (u : State) : State → Prop
  | reply (r : Response) : u.phase = .ready → Move u (answer r u)
  | start (d : Option Token) : u.phase = .ready → u.st = .idle ∨ u.st = .holding → Move u (startAdvance d u)
  | record (r : Response) : u.phase = .ready → listHeld u = true → moreRecords u = true →
      Move u (answer r { u with svCur := u.svCur + 1 })
  | wait : u.phase = .ready ∨ u.phase = .waitSrc → Move u u
  | data (c : List Byte) (rest : List SrcEvent) : u.phase = .waitSrc → u.srcQ = .data c :: rest →
      u.cfg.chunkFits c = true → Move u (deliver c { u with srcQ := rest })
  | eos (rest : List SrcEvent) : u.phase = .waitSrc → u.srcQ = .eos :: rest →
      Move u (endStream (closeRead { u with srcQ := rest }))
  | ioerr (rest : List SrcEvent) (info : Nat × Nat) : u.phase = .waitSrc → u.srcQ = .ioerr :: rest →
      Move u (trap .io info (closeRead { u with srcQ := rest }))
  | ask : u.phase = .run → locator u.cfg u.buf = .needMore → Move u (requestRead (locateBuf u))
  | skip (k : Nat) : u.phase = .run → locator u.cfg u.buf = .skip k → Move u (discard k (locateBuf u))
  | fatal (e : ErrCode) (info : Nat × Nat) : u.phase = .run → locator u.cfg u.buf = .fatal e info →
      Move u (trap e info (locateBuf u))
  | reject (n : Nat) (e : ErrCode) (info : Nat × Nat) : u.phase = .run → 7 + n ≤ u.buf.length →
      Move u (trap e info (discard (7 + n) (locateBuf u)))
  | accept (k : Byte) (q : List Byte) (ck : Word16) (v : Value) : u.phase = .run → 7 + q.length ≤ u.buf.length →
      q.length ≤ 65535 → packetFault u.cfg (covered k q) ck = none → decodeMessage u.cfg k q = .ok v →
      Move u (hold (packetBytes k q ck) v (discard (7 + q.length) (locateBuf u)))

theorem isCommand_of_decodeHost {w : HostWord} {i : Instr} (h : decodeHost w = .ok i) : isCommand i = true := by
  cases w with
  | advanceBy d => simp only [decodeHost] at h; cases h; rfl
  | code c =>
    simp only [decodeHost, decodeCode] at h
    split at h <;> cases h <;> rfl

/-- A host command replies, starts an ADVANCE, or yields a record. -/
theorem command_move {i : Instr} {u t : State} (hc : isCommand i = true) (h : exec i u = .next t) : Move u t := by
  cases i <;> simp only [isCommand, Bool.false_eq_true] at hc <;>
    simp only [exec, execAdvance, execCurrentKind, execNextSatellite, execRawPacket, execGetVersion, execGetPosition,
      execGetStatus, execGetDop, execGetVelocity, execGetSatlist, execGetUnknown] at h <;>
    (try (obtain ⟨hp, ⟨_, _, rfl⟩ | ⟨_, rfl⟩⟩ := accessor_next h <;> exact .reply _ hp)) <;>
    obtain ⟨hp, rfl⟩ := whenReady_next.1 h
  · unfold acceptAdvance; split
    · exact .reply _ hp
    · exact .reply _ hp
    · exact .start _ hp (.inl ‹_›)
    · exact .start _ hp (.inr ‹_›)
  · split_ifs <;> exact .reply _ hp
  · unfold acceptNext; split_ifs with h
    · rw [Bool.and_eq_true] at h; exact .record _ hp h.1 h.2
    · exact .reply _ hp
  · split_ifs <;> exact .reply _ hp

/-- Where LOCATE emits, it has already left in the Checksum unit what the packet's own checks leave there. -/
theorem setCk_locateBuf {u : State} {k : Byte} {q : List Byte} {ck : Word16}
    (hp : u.buf.take (totalLen u.buf) = packetBytes k q ck) (hq : q.length ≤ 65535)
    (hr : reachesChecksum u.buf = true) : setCk (ckFold (covered k q)) (locateBuf u) = locateBuf u := by
  simp only [locateBuf, hr, if_true, hp, coveredOf_packetBytes _ _ hq]; rfl

/-- The move of block or source. -/
theorem inner_move {u t : State} (h : InnerMove u t) : Move u t := by
  rcases h with ⟨hp, rfl⟩ | ⟨hp, _, rfl⟩ | ⟨hp, e, rest, hs, h⟩ |
    ⟨hp, ⟨hl, rfl⟩ | ⟨k, hl, rfl⟩ | ⟨e, info, hl, rfl⟩ | ⟨p, n, hl, h⟩⟩
  · exact .wait (.inl hp)
  · exact .wait (.inr hp)
  · cases e with
    | data c =>
      simp only [srcInstr, exec, execData] at h
      split_ifs at h with hc
      obtain ⟨_, rfl⟩ := whenAsked_next.1 h
      exact .data c rest hp hs hc
    | eos =>
      simp only [srcInstr, exec, execEos] at h
      obtain ⟨_, rfl⟩ := whenAsked_next.1 h
      exact .eos rest hp hs
    | ioerr =>
      simp only [srcInstr, exec, execIoerr] at h
      obtain ⟨_, rfl⟩ := whenAsked_next.1 h
      exact .ioerr rest _ hp hs
  · exact .ask hp hl
  · exact .skip k hp hl
  · exact .fatal e info hp hl
  · obtain ⟨h5, ha, hT, rfl, rfl, hf⟩ := locator_emit hl
    obtain ⟨k, q, ck, hq, hpk, hlen, _⟩ := packet_at_head h5 ha hT
    have hb := setCk_locateBuf hpk hq ((reachesChecksum_iff _).2 ⟨h5, ha, hT⟩)
    have hc : (locateBuf u).cfg = u.cfg := locateBuf_cfg u
    rw [hpk, packetInstr_packetBytes _ _ _ hq, ← hc, exec_kindInstr] at h
    rw [hpk, coveredOf_packetBytes _ _ hq, ckFieldOf_packetBytes _ _ hq] at hf
    obtain ⟨_, ⟨e, info, h1, _⟩ | ⟨_, e, info, _, rfl⟩ | ⟨_, v, hv, rfl⟩⟩ := runPacket_next h
    · rw [hc, hf] at h1; cases h1
    · rw [hb]; exact .reject _ _ _ hp (by omega)
    · rw [hb]; exact .accept _ _ _ _ hp (by omega) hq hf (by rw [← hc]; exact hv)

/-- A step is a reset or one of the moves, from the state with the host's queue advanced. -/
theorem step_moves {s t : State} (h : step s = .next t) :
    (∃ src rest, s.hostQ = .reset src :: rest ∧ t = rebind src rest s) ∨ ∃ q, Move { s with hostQ := q } t := by
  rcases step_cases h with h | ⟨w, rest, i, _, _, hd, h⟩ | ⟨q, _, h⟩
  · exact .inl h
  · exact .inr ⟨rest, command_move (isCommand_of_decodeHost hd) h⟩
  · exact .inr ⟨q, inner_move h⟩

end Sys2Proof
end

