-- ==== Sys2Proof/Laws/PerInstr.lean ====
section
/-! SUPPORT. Statements for all instructions, one lemma per constructor of Instr. -/

namespace Sys2Proof.Laws.EncodingForm

/-- What an instruction's encoding is, where it has one: a packet begins with the sync marker, takes `7 + N` bytes and
carries the payload whole (30_encoding.md R90, R91); a host word decodes to the instruction (R105). -/
def Statement (i : Instr) : Prop :=
  ∀ (cfg : Params) (e : Encoded), encode cfg i = some e →
    match e with
    | .stream b => aligned b = true ∧ ∃ k q ck, packetParts cfg i = some (k, q, ck) ∧ b.length = 7 + q.length ∧
        byteAt b 2 = k ∧ slice b 5 (5 + q.length) = q
    | .host w => decodeHost w = .ok i

theorem of_packet {i : Instr}
    (h : ∀ cfg, ∃ k q ck, packetParts cfg i = some (k, q, ck) ∧ encode cfg i = some (.stream (packetBytes k q ck))) :
    Statement i := by
  intro cfg e he
  obtain ⟨k, q, ck, hp, h⟩ := h cfg
  rw [h] at he
  cases he
  exact ⟨rfl, k, q, ck, hp, packetBytes_length k q ck, rfl, slice_packetBytes k q ck⟩

theorem of_command {i : Instr} {w : HostWord} (h : ∀ cfg, encode cfg i = some (.host w)) (hd : decodeHost w = .ok i) :
    Statement i := by
  intro cfg e he
  rw [h] at he
  cases he
  exact hd

theorem of_unencoded {i : Instr} (h : ∀ cfg, encode cfg i = none) : Statement i := by
  intro cfg e he
  rw [h] at he
  cases he

theorem version (q : List Byte) (ck : Word16) : Statement (.version q ck) := of_packet fun _ => ⟨_, _, _, rfl, rfl⟩
theorem position (q : List Byte) (ck : Word16) : Statement (.position q ck) := of_packet fun _ => ⟨_, _, _, rfl, rfl⟩
theorem status (q : List Byte) (ck : Word16) : Statement (.status q ck) := of_packet fun _ => ⟨_, _, _, rfl, rfl⟩
theorem dilutionOfPrecision (q : List Byte) (ck : Word16) : Statement (.dilutionOfPrecision q ck) :=
  of_packet fun _ => ⟨_, _, _, rfl, rfl⟩
theorem velocity (q : List Byte) (ck : Word16) : Statement (.velocity q ck) := of_packet fun _ => ⟨_, _, _, rfl, rfl⟩
theorem satelliteList (q : List Byte) (ck : Word16) : Statement (.satelliteList q ck) :=
  of_packet fun _ => ⟨_, _, _, rfl, rfl⟩
theorem unknown (k : Byte) (q : List Byte) (ck : Word16) : Statement (.unknown k q ck) :=
  of_packet fun _ => ⟨_, _, _, rfl, rfl⟩
theorem advance (d : Option Token) : Statement (.advance d) := by
  cases d
  · exact of_command (fun _ => rfl) rfl
  · exact of_command (fun _ => rfl) rfl
theorem currentKind : Statement .currentKind := of_command (fun _ => rfl) rfl
theorem nextSatellite : Statement .nextSatellite := of_command (fun _ => rfl) rfl
theorem rawPacket : Statement .rawPacket := of_command (fun _ => rfl) rfl
theorem getVersion : Statement .getVersion := of_command (fun _ => rfl) rfl
theorem getPosition : Statement .getPosition := of_command (fun _ => rfl) rfl
theorem getStatus : Statement .getStatus := of_command (fun _ => rfl) rfl
theorem getDop : Statement .getDop := of_command (fun _ => rfl) rfl
theorem getVelocity : Statement .getVelocity := of_command (fun _ => rfl) rfl
theorem getSatlist : Statement .getSatlist := of_command (fun _ => rfl) rfl
theorem getUnknown : Statement .getUnknown := of_command (fun _ => rfl) rfl
theorem data (c : List Byte) : Statement (.data c) := of_unencoded fun _ => rfl
theorem eos : Statement .eos := of_unencoded fun _ => rfl
theorem ioerr : Statement .ioerr := of_unencoded fun _ => rfl
theorem ckClear : Statement .ckClear := of_unencoded fun _ => rfl
theorem ckUpdate (x : Byte) : Statement (.ckUpdate x) := of_unencoded fun _ => rfl
theorem ckResult : Statement .ckResult := of_unencoded fun _ => rfl
theorem locate : Statement .locate := of_unencoded fun _ => rfl

end Sys2Proof.Laws.EncodingForm
end

