-- ==== Sys2Proof/Tests/Slice0.lean ====
section
/-! SUPPORT. Tests of the model against values the spec gives (95_test_vectors.md, 40_checksum.md section 4,
42_message_decoders.md, 43_satellite_iterator.md section 2), and a witness for the hypotheses of every statement. -/

namespace Sys2Proof.Tests

open Sys2Proof.Machine

/-! ## Packets of 95_test_vectors.md section 2.3 and 43_satellite_iterator.md section 2 -/

def bare : List Byte := [0x45, 0x52, 0x10, 0x00, 0x00, 0x10, 0x30]

def opaque3 : List Byte := [0x45, 0x52, 0x7F, 0x03, 0x00, 0xDE, 0xAD, 0xBE, 0xCB, 0xBB]

def versionQ : List Byte := [0xE8, 0x03, 0x00, 0x00, 0x00, 0x01, 0x00]

def versionP : List Byte := [0x45, 0x52, 0x01, 0x07, 0x00, 0xE8, 0x03, 0x00, 0x00, 0x00, 0x01, 0x00, 0xF4, 0xB5]

def positionQ : List Byte :=
  [0xE8, 0x03, 0x00, 0x00, 0x6F, 0x81, 0x04, 0xC5, 0x8F, 0x11, 0x32, 0x40, 0x52, 0x49, 0x9D, 0x80, 0x26, 0xAA, 0x4D,
   0x40, 0x00, 0x00, 0x00, 0x00, 0x00, 0x40, 0x40, 0x40, 0x00, 0x00, 0x00, 0x00, 0x00, 0x80, 0x24, 0xC0, 0xDC, 0x05,
   0x00, 0x00, 0xC4, 0x09, 0x00, 0x00]

def statusQ : List Byte := [0xE8, 0x03, 0x00, 0x00, 0x98, 0x08, 0x03, 0x01, 0x0C]

def dopQ : List Byte := [0xE8, 0x03, 0x00, 0x00, 0x7B, 0x00, 0xC8, 0x01, 0xFF, 0xFF, 0x00, 0x00]

def velocityQ : List Byte :=
  [0xE8, 0x03, 0x00, 0x00, 0x6A, 0xFF, 0xFF, 0xFF, 0xFA, 0x00, 0x00, 0x00, 0xFF, 0xFF, 0xFF, 0xFF, 0x24, 0x01, 0x00,
   0x00, 0x40, 0x42, 0x0F, 0x00, 0x07, 0x00, 0x00, 0x00]

def record0 : List Byte :=
  [0x05, 0x00, 0x39, 0x30, 0x00, 0x00, 0xFD, 0xFF, 0xFF, 0xFF, 0x70, 0x2F, 0xFC, 0xFF, 0xA0, 0x00, 0x08, 0x07, 0xC2,
   0x01]

def record1 : List Byte :=
  [0x47, 0x01, 0x9C, 0xFF, 0xFF, 0xFF, 0x07, 0x00, 0x00, 0x00, 0xDC, 0x05, 0x00, 0x00, 0x00, 0x00, 0x0F, 0x0E, 0x84,
   0x03]

def listQ : List Byte := [0xE8, 0x03, 0x00, 0x00, 0x02] ++ record0 ++ record1

def listP : List Byte := [0x45, 0x52, 0x06, 0x2D, 0x00] ++ listQ ++ [0x01, 0xB2]

/-- The empty list, 95_test_vectors.md section 2.3. -/
def emptyListQ : List Byte := [0xE8, 0x03, 0x00, 0x00, 0x00]

def sub0 : SubRec :=
  { id := 5, satType := 0, carrierPhase := 12345, pseudoRangeResidual := -3, dopplerFrequency := -250000,
    signalStrength := 160, azimuth := 1800, elevation := 450 }

def sub1 : SubRec :=
  { id := 71, satType := 1, carrierPhase := -100, pseudoRangeResidual := 7, dopplerFrequency := 1500,
    signalStrength := 0, azimuth := 3599, elevation := 900 }

/-! ## Small states -/

/-- The block at the Run step with `b` buffered. -/
def running (b : List Byte) : State := { State.reset with st := .idle, phase := .run, buf := b }

/-- The block waiting for the source. -/
def waiting (src : List SrcEvent) : State :=
  { State.reset with phase := .waitSrc, rdReq := some { deadline := none }, srcQ := src }

/-- Holding the empty Unknown packet. -/
def holdingBare : State :=
  { State.reset with st := .holding, kind := 0x10, pkt := bare, pktLen := 7, val := .unknown [] }

/-- Holding the two-record list, with the cursor at `n`. -/
def holdingList (n : Byte) : State :=
  { State.reset with
    st := .holding, kind := 0x06, pkt := listP, pktLen := 52
    val := .satelliteList { timeGPS := 1000, numSVs := 2 }, svCur := n, svCnt := 2 }

def failed : State := { State.reset with st := .failed, err := .version, errInfo := (0x020000, 0) }

def exhausted : State := { State.reset with st := .exhausted }

/-- The parameters with `CHUNK_MAX = 2`. -/
def chunk2 : Params := { Params.default with chunkMax := some 2 }

def after : Host.Outcome State Fault Refusal → Option State
  | .next t => some t
  | .fault _ => none
  | .refused _ => none

def stopped : Host.Outcome State Fault Refusal → Option Fault
  | .next _ => none
  | .fault r => some r
  | .refused _ => none

/-- The response a step leaves. -/
def reply (o : Host.Outcome State Fault Refusal) : Option Response := (after o).bind State.resp

/-- The value an accessor's response carries. -/
def replyOf (s : State) : Option Response := s.resp

/-! ## Well-formedness: for each check a term it refuses -/

theorem test_wf_params : Params.default.wf = true ∧ chunk2.wf = true := by decide
theorem test_wf_duplicate_kind : ({ Params.default with kindStatus := 0x01 } : Params).wf = false := by decide
theorem test_wf_chunkMax_zero : ({ Params.default with chunkMax := some 0 } : Params).wf = false := by decide
theorem payloadFits_replicate (n : Nat) : payloadFits (List.replicate n 0) = decide (n ≤ 65535) := by
  rw [payloadFits, List.length_replicate]
theorem test_wf_longest_payload : Instr.wf Params.default (.version (List.replicate 65535 0) 0) = true :=
  payloadFits_replicate 65535
theorem test_wf_payload_too_long : ∀ i ∈ [Instr.version (List.replicate 65536 0) 0, .position (List.replicate 65536 0) 0,
    .status (List.replicate 65536 0) 0, .dilutionOfPrecision (List.replicate 65536 0) 0,
    .velocity (List.replicate 65536 0) 0, .satelliteList (List.replicate 65536 0) 0,
    .unknown 0x10 (List.replicate 65536 0) 0], Instr.wf Params.default i = false := by
  have h : payloadFits (List.replicate 65536 0) = false := payloadFits_replicate 65536
  simp only [List.forall_mem_cons, Instr.wf, h, Bool.false_and, true_and]
  exact List.forall_mem_nil _
theorem test_wf_unknown_of_known_kind : Instr.wf Params.default (.unknown 0x06 [] 0) = false := by decide
theorem test_wf_unknown : Instr.wf Params.default (.unknown 0x10 [] 0x3010) = true := by decide
theorem test_wf_empty_delivery : Instr.wf Params.default (.data []) = false := by decide
theorem test_wf_delivery_too_long : Instr.wf chunk2 (.data [1, 2, 3]) = false ∧ Instr.wf chunk2 (.data [1, 2]) = true := by
  decide

/-! ## Decoding: words written out from 30_encoding.md R90, R105 -/

theorem test_decode_version :
    decode Params.default (.stream versionP) = .ok (.version versionQ 0xB5F4) := by decide
theorem test_decode_position :
    decode Params.default (.stream ([0x45, 0x52, 0x02, 0x2C, 0x00] ++ positionQ ++ [0xCB, 0x85])) =
      .ok (.position positionQ 0x85CB) := by decide
theorem test_decode_status :
    decode Params.default (.stream ([0x45, 0x52, 0x03, 0x09, 0x00] ++ statusQ ++ [0xA7, 0xF6])) =
      .ok (.status statusQ 0xF6A7) := by decide
theorem test_decode_dop :
    decode Params.default (.stream ([0x45, 0x52, 0x04, 0x0C, 0x00] ++ dopQ ++ [0x3D, 0x6B])) =
      .ok (.dilutionOfPrecision dopQ 0x6B3D) := by decide
theorem test_decode_velocity :
    decode Params.default (.stream ([0x45, 0x52, 0x05, 0x1C, 0x00] ++ velocityQ ++ [0x26, 0x8F])) =
      .ok (.velocity velocityQ 0x8F26) := by decide
theorem test_decode_satlist : decode Params.default (.stream listP) = .ok (.satelliteList listQ 0xB201) := by decide
theorem test_decode_unknown :
    decode Params.default (.stream opaque3) = .ok (.unknown 0x7F [0xDE, 0xAD, 0xBE] 0xBBCB) := by decide
theorem test_decode_commands :
    [0x0, 0x1, 0x2, 0x3].map (fun c => decodeHost (.code c)) =
      [.ok (.advance none), .ok .currentKind, .ok .nextSatellite, .ok .rawPacket] ∧
    [0x8, 0x9, 0xA, 0xB, 0xC, 0xD, 0xE].map (fun c => decodeHost (.code c)) =
      [.ok .getVersion, .ok .getPosition, .ok .getStatus, .ok .getDop, .ok .getVelocity, .ok .getSatlist,
       .ok .getUnknown] ∧
    decodeHost (.advanceBy 5) = .ok (.advance (some 5)) := by decide
theorem test_decode_rejects_codes :
    [0x4, 0x5, 0x6, 0x7, 0xF].map (fun c => decodeHost (.code c)) = List.replicate 5 (.error .notACommand) := by decide
theorem test_decode_rejects_bytes :
    decode Params.default (.stream [0x45, 0x52, 0x10, 0x00]) = .error .tooShort ∧
    decode Params.default (.stream [0x45, 0x53, 0x10, 0x00, 0x00, 0x10, 0x30]) = .error .notAligned ∧
    decode Params.default (.stream [0x45, 0x52, 0x10, 0x00, 0x00, 0x10]) = .error .incomplete ∧
    decode Params.default (.stream (bare ++ [0x99])) = .error .trailingBytes := by decide
/-- The length field is little-endian: byte 3 low, byte 4 high (30_encoding.md R90). -/
theorem test_length_field : totalLen [0x45, 0x52, 0x10, 0xFF, 0xFF] = 65542 ∧ totalLen [0x45, 0x52, 0x45, 0x52, 0x10] = 4185 := by
  decide
/-- Another assignment of the kind codes (00_scope.md R9): byte 0x10 as Version. -/
theorem test_decode_other_kinds :
    decode { Params.default with kindVersion := 0x10 } (.stream bare) = .ok (.version [] 0x3010) ∧
    decode { Params.default with kindVersion := 0x10 } (.stream versionP) = .ok (.unknown 0x01 versionQ 0xB5F4) := by
  decide
theorem test_decode_table_words :
    decodeTableWord 40 0x4552010700 = some (.version [0, 0, 0, 0, 0, 0, 0] 0) ∧
    decodeTableWord 40 0x4552030000 = some (.status [] 0) ∧
    decodeTableWord 40 0x4552000000 = some (.unknown 0x00 [] 0) ∧
    decodeTableWord 8 0x2 = some .nextSatellite ∧ decodeTableWord 8 0xE = some .getUnknown ∧
    decodeTableWord 8 0x4 = none ∧ decodeTableWord 40 0x4553010000 = none := by decide
theorem test_withFetchWord :
    (after (step (State.reset.withFetchWord 8 0x1))).map replyOf = some (some .invalid) ∧
    (after (step (State.reset.withFetchWord 40 0x4552100000))).map (fun t => (t.st, t.err, t.errInfo)) =
      some (.failed, .checksum, (0x3010, 0)) := by decide
/-- Items of 30_encoding.md R108. -/
theorem test_packet_items : validPacket 0x10 [] = bare ∧ validPacket 0x06 listQ = listP ∧
    badPacket 0x10 [] = [0x45, 0x52, 0x10, 0x00, 0x00, 0x11, 0x30] := by decide +kernel

/-! ## Checksum: the table of 40_checksum.md section 4, and 95_test_vectors.md section 2.1 -/

theorem test_checksum_table :
    [[], [0x00], [0x01], [0xFF], [0xFF, 0x01], [0x01, 0x02], [0x02, 0x01], [0x01, 0x02, 0x03], [0xF0, 0x20, 0xFF],
     [0x80, 0x80], [0x01, 0x07, 0x00, 0xE8, 0x03, 0x00, 0x00, 0x00, 0x01, 0x00]].map checksum =
    [0x0000, 0x0000, 0x0101, 0xFFFF, 0xFF00, 0x0403, 0x0503, 0x0A06, 0x0F0F, 0x8000, 0xB5F4] := by decide
theorem test_checksum_256 : checksum (List.replicate 256 0xFF) = 0x8000 ∧
    checksum ((List.range 256).map (BitVec.ofNat 8)) = 0x8080 := by decide +kernel
theorem test_ckUpdate : (after (exec (.ckUpdate 0x01) { State.reset with ckA := 0x10, ckB := 0x30 })).map
    (fun t => (t.ckA, t.ckB)) = some (0x11, 0x41) := by decide
theorem test_ckUpdate_wraps : (after (exec (.ckUpdate 0x20) { State.reset with ckA := 0xF0, ckB := 0xF0 })).map
    (fun t => (t.ckA, t.ckB)) = some (0x10, 0x00) := by decide
theorem test_ckResult : (after (exec .ckResult { State.reset with ckA := 0xF4, ckB := 0xB5 })).map State.unitOut =
    some (some (.checksum 0xB5F4)) := by decide
theorem test_ckClear : (after (exec .ckClear { State.reset with ckA := 0xF4, ckB := 0xB5 })).map
    (fun t => (t.ckA, t.ckB)) = some (0, 0) := by decide

/-! ## LOCATE: the table of 95_test_vectors.md section 2.2 -/

theorem test_locate_waits :
    [[], [0x45], [0x45, 0x52, 0x01, 0x07], [0xAA, 0xBB, 0xCC, 0xDD], [0x45, 0x52, 0x10, 0x00, 0x00],
     [0x45, 0x52, 0x10, 0x00, 0x00, 0x10], [0x45, 0x52, 0x10, 0xFF, 0xFF, 0x00, 0x00, 0x00],
     [0x45, 0x52, 0x45, 0x52, 0x10, 0x00, 0x00, 0x10, 0x30]].map (locator Params.default) =
    List.replicate 8 .needMore := by decide
theorem test_locate_skips :
    [[0xAA, 0xBB, 0xCC, 0xDD, 0xEE], [0xAA, 0xBB, 0xCC, 0xDD, 0x45], [0xAA, 0xBB, 0xCC, 0x45, 0x52],
     [0xAA, 0x45, 0x52, 0x01, 0x07], [0x52, 0x45, 0x52, 0x45, 0x52], [0x45, 0x45, 0x52, 0x00, 0x00],
     [0x52, 0x10, 0x00, 0x00, 0x10, 0x30], [0x00, 0x45, 0x52, 0x10, 0x01, 0x00, 0xFF, 0x00, 0x00]].map
      (locator Params.default) =
    [.skip 5, .skip 5, .skip 3, .skip 1, .skip 1, .skip 1, .skip 6, .skip 1] := by decide
theorem test_locate_emits :
    locator Params.default (bare ++ [0x99]) = .emit bare 7 ∧
    locator Params.default [0x45, 0x52, 0x06, 0x05, 0x00, 0xE8, 0x03, 0x00, 0x00, 0x00, 0xF6, 0xE7] =
      .emit [0x45, 0x52, 0x06, 0x05, 0x00, 0xE8, 0x03, 0x00, 0x00, 0x00, 0xF6, 0xE7] 12 := by decide
theorem test_locate_checksum_faults :
    locator Params.default [0x45, 0x52, 0x10, 0x00, 0x00, 0x10, 0x31] = .fatal .checksum (0x3010, 0x3110) ∧
    locator Params.default [0x45, 0x52, 0x10, 0x00, 0x00, 0x11, 0x30] = .fatal .checksum (0x3010, 0x3011) ∧
    locator Params.default [0x45, 0x52, 0x01, 0x00, 0x00, 0x01, 0x01] = .fatal .checksum (0x0301, 0x0101) := by decide
theorem test_locate_shape_faults :
    locator Params.default [0x45, 0x52, 0x01, 0x00, 0x00, 0x01, 0x03] = .fatal .shape (7, 0) ∧
    locator Params.default [0x45, 0x52, 0x04, 0x00, 0x00, 0x04, 0x0C] = .fatal .shape (12, 0) ∧
    locator Params.default [0x45, 0x52, 0x06, 0x04, 0x00, 0xE8, 0x03, 0x00, 0x00, 0xF5, 0xEB] = .fatal .shape (5, 4) ∧
    locator Params.default [0x45, 0x52, 0x06, 0x05, 0x00, 0xE8, 0x03, 0x00, 0x00, 0x01, 0xF7, 0xE8] =
      .fatal .shape (25, 5) := by decide
theorem test_locate_shape_fault_one_of_two :
    locator Params.default
      ([0x45, 0x52, 0x06, 0x19, 0x00, 0xE8, 0x03, 0x00, 0x00, 0x02] ++ record0 ++ [0x80, 0x07]) =
      .fatal .shape (45, 25) := by decide
theorem test_locate_instruction : (after (exec .locate (running bare))).map (fun t => (t.unitOut, t.ckA, t.ckB)) =
    some (some (.located (.emit bare 7)), 0x10, 0x30) := by decide

/-! ## Packets: 95_test_vectors.md section 2.3 -/

/-- What one packet leaves: `ST`, `VAL`, the response, `POS` and `BUF`. -/
def outcome (o : Host.Outcome State Fault Refusal) : Option (ScanState × Value × Option Response × Nat × List Byte) :=
  (after o).map fun t => (t.st, t.val, t.resp, t.pos, t.buf)

/-- The error one packet leaves, with the response, `POS` and `BUF`. -/
def errorOf (o : Host.Outcome State Fault Refusal) :
    Option (ErrCode × (Nat × Nat) × Option Response × Nat × List Byte) :=
  (after o).map fun t => (t.err, t.errInfo, t.resp, t.pos, t.buf)

theorem test_version : outcome (exec (.version versionQ 0xB5F4) (running (versionP ++ [0x99]))) =
    some (.holding, .version { timeGPS := 1000, high := 0, medium := 1, low := 0 }, some (.ok .version 0x01), 14,
      [0x99]) := by decide
theorem test_version_unsupported :
    errorOf (exec (.version [0xE8, 0x03, 0x00, 0x00, 0x00, 0x01, 0x01] 0xB6F5) (running (List.replicate 15 0))) =
      some (.version, (0x000101, 0), some (.fail .version (0x000101, 0)), 14, [0]) := by decide
theorem test_position : outcome (exec (.position positionQ 0x85CB) (running [])) =
    some (.holding, .position
      { timeGPS := 1000, longitude := 0x4032118FC504816F, latitude := 0x404DAA26809D4952,
        altitudeEllipsoid := 0x4040400000000000, altitudeMSL := 0xC024800000000000, horizontalAccuracy := 1500,
        verticalAccuracy := 2500 }, some (.ok .position 0x02), 51, []) := by decide +kernel
/-- The example patterns of 42_message_decoders.md R154, 32.5 and -10.25, and a NaN. -/
theorem test_float_values :
    floatValue ⟨0x4040400000000000, .metres⟩ = some (65 / 2) ∧ floatValue ⟨0xC024800000000000, .metres⟩ = some (-41 / 4) ∧
    f64Value 0x7FF8000000000000 = none := by decide +kernel
theorem test_status : outcome (exec (.status statusQ 0xF6A7) (running [])) =
    some (.holding, .status { timeGPS := 1000, weekGPS := 2200, fixType := 3, hasFix := 1, numSVs := 12 },
      some (.ok .status 0x03), 16, []) := by decide
theorem test_status_bad_field :
    errorOf (exec (.status [0xE8, 0x03, 0x00, 0x00, 0x98, 0x08, 0x03, 0x02, 0x0C] 0xF8A8) (running [])) =
      some (.field, (7, 2), some (.fail .field (7, 2)), 16, []) := by decide
theorem test_dop : outcome (exec (.dilutionOfPrecision dopQ 0x6B3D) (running [])) =
    some (.holding, .dilutionOfPrecision
      { timeGPS := 1000, geometric := 123, position := 456, vertical := 65535, horizontal := 0 },
      some (.ok .dilutionOfPrecision 0x04), 19, []) := by decide
theorem test_dop_bad_checksum :
    errorOf (exec (.dilutionOfPrecision dopQ 0x6B3E) (running bare)) =
      some (.checksum, (0x6B3D, 0x6B3E), some (.fail .checksum (0x6B3D, 0x6B3E)), 0, bare) := by decide
theorem test_velocity : outcome (exec (.velocity velocityQ 0x8F26) (running [])) =
    some (.holding, .velocity
      { timeGPS := 1000, north := -150, east := 250, down := -1, speed := 292, heading := 1000000,
        speedAccuracy := 7 }, some (.ok .velocity 0x05), 35, []) := by decide
theorem test_velocity_signed :
    (readNorth { timeGPS := 0, north := le32 velocityQ 4, east := 0, down := 0, speed := 0, heading := 0,
                 speedAccuracy := 0 }).raw = -150 := by decide
theorem test_satlist : (after (exec (.satelliteList listQ 0xB201) { running listP with svCur := 9 })).map
    (fun t => (t.val, t.svCur, t.svCnt, t.pktLen, t.buf)) =
    some (.satelliteList { timeGPS := 1000, numSVs := 2 }, 0, 2, 52, []) := by decide +kernel
theorem test_satlist_bad_shape :
    errorOf (exec (.satelliteList [0xE8, 0x03, 0x00, 0x00, 0x01] 0xE8F7) (running [])) =
      some (.shape, (25, 5), some (.fail .shape (25, 5)), 0, []) := by decide
theorem test_unknown : outcome (exec (.unknown 0x7F [0xDE, 0xAD, 0xBE] 0xBBCB) (running opaque3)) =
    some (.holding, .unknown [0xDE, 0xAD, 0xBE], some (.ok (.unknown 0x7F) 0x7F), 10, []) := by decide
theorem test_unknown_bad_checksum :
    errorOf (exec (.unknown 0x10 [] 0x3011) (running bare)) =
      some (.checksum, (0x3010, 0x3011), some (.fail .checksum (0x3010, 0x3011)), 0, bare) := by decide

/-! ## Sub-records and readings: 95_test_vectors.md section 2.4, 30_encoding.md R97, R99 -/

theorem test_subRec : subRec listQ 0 = sub0 ∧ subRec listQ 1 = sub1 := by decide
theorem test_subRec_ones : (subRec ([0xE8, 0x03, 0x00, 0x00, 0x01] ++ List.replicate 20 0xFF) 0).carrierPhase.toInt = -1 ∧
    (subRec ([0xE8, 0x03, 0x00, 0x00, 0x01] ++ List.replicate 20 0xFF) 0).elevation = 65535 ∧
    satName (subRec ([0xE8, 0x03, 0x00, 0x00, 0x01] ++ List.replicate 20 0xFF) 0).satType = none := by decide
theorem test_readings : (readDopplerFrequency sub0).raw = -250000 ∧ (readCarrierPhase sub1).raw = -100 ∧
    satName sub1.satType = some .glonass ∧ fixName 5 = none ∧ satName 6 = some .sbas := by decide
theorem test_scaled : scaledValue (readDopplerFrequency sub0) = -250 ∧ scaledValue (readAzimuth sub0) = 180 ∧
    scaledValue (readSignalStrength sub0) = 40 := by
  have h1 : (-250000 : Word32).toInt = -250000 := by decide
  have h2 : (1800 : Word16).toNat = 1800 ∧ (160 : Word16).toNat = 160 := by decide
  refine ⟨?_, ?_, ?_⟩ <;> simp only [scaledValue, readDopplerFrequency, readAzimuth, readSignalStrength, signedReading,
    unsignedReading, sub0, h1, h2.1, h2.2] <;> norm_num
theorem test_f64_fields : f64Sign 0xC024800000000000 = 1 ∧ f64Exponent 0xC024800000000000 = 1026 ∧
    f64Fraction 0xC024800000000000 = 0x4800000000000 := by decide
theorem test_codes : responseCode .invalid = 6 ∧ errCode .io = 5 ∧ stCode .failed = 3 ∧ phaseCode .waitSrc = 2 := by
  decide

/-! ## Host commands -/

theorem test_advance_from_idle : (after (exec (.advance (some 9)) State.reset)).map
    (fun t => (t.phase, t.deadline, t.resp)) = some (.run, some 9, none) := by decide
theorem test_advance_sticky : reply (exec (.advance none) failed) = some (.fail .version (0x020000, 0)) ∧
    reply (exec (.advance none) exhausted) = some .endOfSequence := by decide
theorem test_currentKind : reply (exec .currentKind holdingBare) = some (.ok (.unknown 0x10) 0x10) ∧
    reply (exec .currentKind State.reset) = some .invalid := by decide
theorem test_rawPacket : reply (exec .rawPacket holdingBare) = some (.bytes bare) ∧
    reply (exec .rawPacket exhausted) = some .invalid := by decide
theorem test_nextSatellite : reply (exec .nextSatellite (holdingList 0)) = some (.some sub0) ∧
    reply (exec .nextSatellite (holdingList 1)) = some (.some sub1) ∧
    reply (exec .nextSatellite (holdingList 2)) = some .endOfSequence := by decide
theorem test_nextSatellite_elsewhere : reply (exec .nextSatellite State.reset) = some .endOfSequence ∧
    reply (exec .nextSatellite { holdingBare with svCnt := 2 }) = some .endOfSequence := by decide
theorem test_getUnknown : reply (exec .getUnknown holdingBare) = some (.value (.unknown [])) ∧
    reply (exec .getVersion holdingBare) = some .invalid := by decide
theorem test_getSatlist : reply (exec .getSatlist (holdingList 1)) =
      some (.value (.satelliteList { timeGPS := 1000, numSVs := 2 })) ∧
    (after (exec .getSatlist (holdingList 1))).map State.svCur = some 1 := by decide
/-- One typed accessor on a held packet of each other kind; the wrong one answers `INVALID`. -/
def holdingKind (k : Byte) (v : Value) : State := { holdingBare with kind := k, val := v }
theorem test_getVersion : reply (exec .getVersion (holdingKind 0x01 (.version default))) = some (.value (.version default)) ∧
    reply (exec .getStatus (holdingKind 0x01 (.version default))) = some .invalid := by decide
theorem test_getPosition :
    reply (exec .getPosition (holdingKind 0x02 (.position default))) = some (.value (.position default)) ∧
    reply (exec .getUnknown (holdingKind 0x02 (.position default))) = some .invalid := by decide
theorem test_getStatus : reply (exec .getStatus (holdingKind 0x03 (.status default))) = some (.value (.status default)) ∧
    reply (exec .getStatus State.reset) = some .invalid := by decide
theorem test_getDop : reply (exec .getDop (holdingKind 0x04 (.dilutionOfPrecision default))) =
      some (.value (.dilutionOfPrecision default)) ∧ reply (exec .getDop State.reset) = some .invalid := by decide
theorem test_getVelocity :
    reply (exec .getVelocity (holdingKind 0x05 (.velocity default))) = some (.value (.velocity default)) ∧
    reply (exec .getVelocity (holdingKind 0x04 (.dilutionOfPrecision default))) = some .invalid := by decide
theorem test_command_in_flight : stopped (exec .currentKind (running [])) = some .commandInFlight := by decide

/-! ## Source events -/

theorem test_data : (after (exec (.data [0x52]) { waiting [] with buf := [0x45] })).map
    (fun t => (t.buf, t.phase, t.rdReq)) = some ([0x45, 0x52], .run, none) := by decide
theorem test_data_too_long : stopped (exec (.data [1, 2, 3]) { waiting [] with cfg := chunk2 }) = some .deliveryTooLong := by
  decide
theorem test_eos_keeps_buffer : (after (exec .eos { waiting [] with buf := [0xAA, 0xBB] })).map
    (fun t => (t.st, t.phase, t.buf, t.pos, t.resp)) =
      some (.exhausted, .ready, [0xAA, 0xBB], 0, some .endOfSequence) := rfl
theorem test_ioerr : (after (exec .ioerr (waiting []))).map (fun t => (t.st, t.err, t.phase)) =
    some (.failed, .io, .ready) := by decide

/-! ## One ADVANCE: programs P5, P6, P7 and S13 of 95_test_vectors.md -/

/-- `ADVANCE` from a fresh instance on a source script. -/
def fresh (src : List SrcEvent) : State := advanceWhole none { State.reset with srcQ := src }

theorem test_split_marker_is_lost :
    (fun t : State => (t.st, t.resp, t.pos, t.buf))
      (fresh [.data [0xAA, 0xBB, 0xCC, 0xDD, 0x45], .data [0x52, 0x10, 0x00, 0x00, 0x10, 0x30], .eos]) =
      (.exhausted, some .endOfSequence, 11, []) := by decide
theorem test_whole_marker_is_found :
    (fun t : State => (t.st, t.resp, t.pos, t.srcQ))
      (fresh [.data ([0xAA, 0xBB, 0xCC, 0xDD] ++ bare), .eos]) =
      (.holding, some (.ok (.unknown 0x10) 0x10), 11, [.eos]) := by decide
theorem test_false_marker :
    (fun t : State => (t.err, t.errInfo, t.pos, t.buf.length))
      (fresh [.data [0x00, 0x45, 0x52, 0x10, 0x01, 0x00, 0xFF, 0x00, 0x00]]) = (.checksum, (0x4210, 0x0000), 1, 8) := by
  decide
theorem test_changed_length_passes :
    (fun t : State => (t.val, t.pos, t.buf)) (fresh [.data [0x45, 0x52, 0x10, 0x00, 0x00, 0x10, 0x30, 0x52, 0xA8]]) =
      (.unknown [], 7, [0x52, 0xA8]) := by decide
theorem test_empty_stream : (fun t : State => (t.st, t.resp, t.pos)) (fresh [.eos]) =
    (.exhausted, some .endOfSequence, 0) := by decide
theorem test_step_runs_packet : (after (step (running (bare ++ [0x99])))).map (fun t => (t.st, t.pkt, t.buf)) =
    some (.holding, bare, [0x99]) := by decide
theorem test_not_a_command : stopped (step { State.reset with hostQ := [.command (.code 0x7)] }) = some .notACommand := by
  decide

/-! ## Witnesses: concrete values that meet the hypotheses of each statement together -/

theorem noMarker {b : List Byte} (h : findMarker 0 b = none) (i : Nat) : ¬ MarkerAt b i :=
  (findMarker_spec 0 b).2 h i

theorem validBare : ValidPacket Params.default bare := by unfold ValidPacket; decide

theorem validOpaque : ValidPacket Params.default opaque3 := by unfold ValidPacket; decide

theorem holdingBare_inv : HoldingInv holdingBare where
  sync0 := rfl
  sync1 := rfl
  kind := rfl
  pktLen := by decide
  size := by decide
  checksum := by decide
  shape := fun x h => by cases h
  value := rfl
  version := fun h => by cases h
  status := fun h => by cases h
  cursor := fun h => by cases h

theorem holdingList_inv (n : Byte) (h : n.toNat ≤ 2) : HoldingInv (holdingList n) where
  sync0 := rfl
  sync1 := rfl
  kind := rfl
  pktLen := by show (52 : BitVec 17).toNat = 7 + payloadLen listP; decide
  size := by show listP.length = (52 : BitVec 17).toNat; decide
  checksum := by show checksum (slice listP 2 50) = le16 listP 50; decide +kernel
  shape := fun x e => by
    have e' : expectedLen Params.default 0x06 (payloadOf listP) = some 45 := by decide +kernel
    have e2 : expectedLen Params.default 0x06 (payloadOf listP) = some x := e
    rw [e'] at e2
    cases e2
    show payloadLen listP = 45
    decide
  value := by
    show decodeMessage Params.default 0x06 (payloadOf listP) =
      .ok (.satelliteList { timeGPS := 1000, numSVs := 2 })
    decide +kernel
  version := fun e => by cases e
  status := fun e => by cases e
  cursor := fun _ => ⟨rfl, h⟩

theorem portInv_of_ready {s : State} (hp : s.phase = .ready) (hd : s.deadline = none) (hr : s.rdReq = none) :
    PortInv s where
  inFlight := fun h => absurd hp h
  atRest := fun _ => hd
  asking := fun h => by rw [hp] at h; cases h
  notAsking := fun _ => hr

theorem inv_of_ready {s : State} (hw : s.cfg = Params.default) (hh : s.st = .holding → HoldingInv s)
    (hp : s.phase = .ready) (hd : s.deadline = none) (hr : s.rdReq = none) : Inv s where
  params := by rw [hw]; decide
  holding := hh
  ports := portInv_of_ready hp hd hr
  buffer := ⟨fun h => (by rw [hp] at h; cases h), fun m h => (by rw [hw] at h; cases h)⟩

/-- A block waiting for the source, in the midst of an ADVANCE from Holding. -/
def waitingHeld (src : List SrcEvent) : State :=
  { holdingBare with phase := .waitSrc, rdReq := some { deadline := none }, srcQ := src, buf := [0x45, 0x52] }

theorem waitingHeld_inv (src : List SrcEvent) : Inv (waitingHeld src) where
  params := by show Params.default.wf = true; decide
  holding := fun _ => { holdingBare_inv with }
  ports := ⟨fun _ => ⟨.inr rfl, rfl⟩, fun h => (by cases h), fun _ => ⟨rfl, rfl⟩, fun h => absurd rfl h⟩
  buffer := ⟨fun _ => (by decide : 2 ≤ 65541), fun m h => by cases h⟩

theorem witness_DecodeOfEncode : Params.default.wf = true ∧ (Instr.unknown 0x10 [] 0x3010).wf Params.default = true ∧
    encode Params.default (.unknown 0x10 [] 0x3010) = some (.stream bare) := by decide
theorem witness_DecodeOfEncode_command : (Instr.advance (some 3)).wf Params.default = true ∧
    encode Params.default (.advance (some 3)) = some (.host (.advanceBy 3)) := by decide
theorem witness_EncodeOfDecode : decodePacket Params.default (bare ++ [0x99]) = .ok (.unknown 0x10 [] 0x3010, [0x99]) ∧
    decodeHost (.code 0xE) = .ok .getUnknown := by decide
theorem witness_KindByteClassification : Params.default.wf = true ∧ (0x10 : Byte) ∉ Params.default.kinds := by decide
theorem witness_ExpectedPayloadLengths : Params.default.wf = true ∧ ([] : List Byte).length < 5 ∧
    (List.replicate 4 (0 : Byte)).length < 5 ∧ 5 ≤ emptyListQ.length ∧ (0x10 : Byte) ∉ Params.default.kinds := by decide
theorem witness_ScalingExamples : (DopRec.mk 0 123 0 0 0).geometric = 123 ∧
    (VelocityRec.mk 0 0 0 0 0 1000000 0).heading = 1000000 ∧ sub0.signalStrength = 160 := by decide
theorem witness_ChecksumLaws : 0 < ([0x01, 0x02] : List Byte).length ∧ byteAt [0x01, 0x02] 1 ≠ 0x03 ∧
    byteAt [0x01, 0x02] 0 ≠ 0x02 ∧ (0x01 : Byte) ≠ 0x02 ∧ (ckFold [0x01]).1 ≠ 0 ∧ (ckFold [0x80, 0x80]).1 = 0 := by decide
theorem witness_LocateReturnsOutcome : 5 ≤ (running bare).buf.length ∧ MarkerAt (running bare).buf 0 ∧
    totalLen (running bare).buf ≤ (running bare).buf.length ∧ ¬ 5 ≤ (running []).buf.length :=
  ⟨by decide, ⟨by decide, rfl, rfl⟩, by decide, by decide⟩
theorem witness_LocateSkipsGarbage_first : MarkerAt [0xAA, 0xBB, 0xCC, 0x45, 0x52] 3 ∧
    ∀ j, j < 3 → ¬ MarkerAt [0xAA, 0xBB, 0xCC, 0x45, 0x52] j := by
  refine ⟨⟨by decide, rfl, rfl⟩, fun j hj h => ?_⟩
  have : ∀ j < 3, byteAt [0xAA, 0xBB, 0xCC, 0x45, 0x52] j ≠ Config.sync0 := by decide
  exact this j hj h.2.1
theorem witness_LocateSkipsGarbage_none : 5 ≤ ([0xAA, 0xBB, 0xCC, 0xDD, 0x45] : List Byte).length ∧
    (∀ i, ¬ MarkerAt [0xAA, 0xBB, 0xCC, 0xDD, 0x45] i) ∧ ([0xAA, 0xBB, 0xCC, 0xDD] : List Byte).length < 5 :=
  ⟨by decide, noMarker (by decide), by decide⟩
theorem witness_LocateChecksInOrder_waits : 5 ≤ (bare.take 6).length ∧ MarkerAt (bare.take 6) 0 ∧
    (bare.take 6).length < 5 + (le16 (bare.take 6) 3).toNat + 2 := ⟨by decide, ⟨by decide, rfl, rfl⟩, by decide⟩
theorem witness_LocateChecksInOrder_checksum : MarkerAt [0x45, 0x52, 0x10, 0x00, 0x00, 0x10, 0x31] 0 ∧
    checksum (slice [0x45, 0x52, 0x10, 0x00, 0x00, 0x10, 0x31] 2 5) ≠
      le16 [0x45, 0x52, 0x10, 0x00, 0x00, 0x10, 0x31] 5 := ⟨⟨by decide, rfl, rfl⟩, by decide⟩
theorem witness_LocateChecksInOrder_shape :
    checksum (slice [0x45, 0x52, 0x01, 0x00, 0x00, 0x01, 0x03] 2 5) = le16 [0x45, 0x52, 0x01, 0x00, 0x00, 0x01, 0x03] 5 ∧
    expectedLen Params.default 0x01 [] = some 7 := by decide
theorem witness_LocateChecksInOrder_emits : checksum (slice bare 2 5) = le16 bare 5 ∧
    expectedLen Params.default 0x10 [] = none ∧ checksum (slice versionP 2 12) = le16 versionP 12 ∧
    expectedLen Params.default 0x01 versionQ = some versionQ.length := by decide
theorem witness_EmittedPacketIsSound : locator Params.default (bare ++ [0x99]) = .emit bare 7 ∧
    locator Params.default versionP = .emit versionP 14 := by decide
theorem witness_PacketItemsAreLocated : versionQ.length ≤ 65535 ∧
    ∀ x, expectedLen Params.default 0x01 versionQ = some x → versionQ.length = x := ⟨by decide, by intro x h; cases h; rfl⟩
theorem witness_NeedMoreBoundsBuffer : locator Params.default [0xAA, 0xBB, 0xCC, 0xDD] = .needMore ∧
    locator Params.default [0x45, 0x52, 0x10, 0xFF, 0xFF] = .needMore := by decide
theorem witness_NoSkipAfterSkip : locator Params.default [0xAA, 0xBB, 0xCC, 0x45, 0x52] = .skip 3 ∧
    locator Params.default [0xAA, 0xBB, 0xCC, 0xDD, 0x45] = .skip 5 := by decide
theorem witness_GarbageThenPacket : ([0xDE, 0xAD, 0xBE, 0x45] : List Byte) ≠ [] ∧
    (∀ i, ¬ MarkerAt [0xDE, 0xAD, 0xBE, 0x45] i) ∧ ValidPacket Params.default bare :=
  ⟨by decide, noMarker (by decide), validBare⟩
theorem witness_PartialDeliveryIsTransparent : ValidPacket Params.default bare ∧ 0 < bare.length ∧ 6 < bare.length :=
  ⟨validBare, by decide, by decide⟩
theorem witness_SingleByteMutations : ValidPacket Params.default opaque3 ∧ byteAt opaque3 2 ≠ 0x10 ∧
    (5 ≤ 5 ∧ 5 < opaque3.length ∧ byteAt opaque3 5 ≠ 0) ∧ (9 < opaque3.length ∧ byteAt opaque3 9 ≠ 0) ∧
    byteAt opaque3 0 ≠ 0 ∧ byteAt opaque3 1 ≠ 0 ∧
    (byteAt opaque3 4 ≠ 1 ∧ (opaque3 ++ []).length < 7 + (le16 (opaque3.set 4 1) 3).toNat) :=
  ⟨validOpaque, by decide⟩

/-! ### Packets -/

theorem witness_VersionRuns : (running []).cfg.wf = true ∧ (running []).phase = .run ∧ versionQ.length = 7 ∧
    (byteAt versionQ 4 = 0 ∧ byteAt versionQ 5 = 1 ∧ byteAt versionQ 6 = 0) ∧
    ¬ (byteAt (versionQ.set 4 2) 4 = 0 ∧ byteAt (versionQ.set 4 2) 5 = 1 ∧ byteAt (versionQ.set 4 2) 6 = 0) := by decide
theorem witness_PositionRuns : (running []).cfg.wf = true ∧ (running []).phase = .run ∧ positionQ.length = 44 := by decide
theorem witness_StatusRuns : (running []).cfg.wf = true ∧ (running []).phase = .run ∧ statusQ.length = 9 ∧
    byteAt statusQ 7 = 1 ∧ ¬ (byteAt (statusQ.set 7 2) 7 = 0 ∨ byteAt (statusQ.set 7 2) 7 = 1) := by decide
theorem witness_DilutionOfPrecisionRuns : (running []).cfg.wf = true ∧ (running []).phase = .run ∧ dopQ.length = 12 := by
  decide
theorem witness_VelocityRuns : (running []).cfg.wf = true ∧ (running []).phase = .run ∧ velocityQ.length = 28 := by decide
theorem witness_SatelliteListRuns : (running []).cfg.wf = true ∧ (running []).phase = .run ∧
    listQ.length = 5 + 20 * (byteAt listQ 4).toNat ∧ emptyListQ.length = 5 + 20 * (byteAt emptyListQ 4).toNat := by decide
theorem witness_UnknownRuns : (0x10 : Byte) ∉ (running []).cfg.kinds ∧ (running []).phase = .run ∧
    ([] : List Byte).length ≤ 65535 := by decide
theorem witness_WrongChecksumTraps :
    packetParts (running bare).cfg (.unknown 0x10 [] 0x3011) = some (0x10, [], 0x3011) ∧ (running bare).phase = .run ∧
    checksum (covered 0x10 []) ≠ 0x3011 ∧
    packetParts (running bare).cfg (.version [] 0) = some (0x01, [], 0) ∧ checksum (covered 0x01 []) ≠ 0 := by decide
theorem witness_WrongShapeTraps : (running []).phase = .run ∧
    packetParts (running []).cfg (.version [] 0x0301) = some (0x01, [], checksum (covered 0x01 [])) ∧
    expectedLen (running []).cfg 0x01 [] = some 7 ∧
    packetParts (running []).cfg (.satelliteList [] 0x1206) = some (0x06, [], checksum (covered 0x06 [])) ∧
    expectedLen (running []).cfg 0x06 [] = some 5 := by decide
theorem witness_PacketFrame : packetParts (running bare).cfg (.unknown 0x10 [] 0x3010) = some (0x10, [], 0x3010) ∧
    ∃ t, exec (.unknown 0x10 [] 0x3010) (running bare) = .next t ∧ t.st = .holding := ⟨by decide, _, rfl, rfl⟩

/-! ### Host commands and source events -/

theorem witness_AdvanceAccepted : State.reset.phase = .ready ∧ State.reset.st = .idle ∧ holdingBare.phase = .ready ∧
    holdingBare.st = .holding ∧ failed.phase = .ready ∧ failed.st = .failed ∧ exhausted.phase = .ready ∧
    exhausted.st = .exhausted := by decide
theorem witness_CurrentKindAnswers : holdingBare.phase = .ready ∧ State.reset.phase = .ready := by decide
theorem witness_AccessorsAnswer : (holdingKind 0x01 (.version default)).phase = .ready ∧
    tag Params.default 0x01 = .version ∧ tag Params.default 0x10 = .unknown 0x10 := by decide
theorem witness_RawPacketAnswers : holdingBare.phase = .ready ∧ holdingBare.st = .holding ∧
    State.reset.st ≠ .holding := by decide
theorem witness_NextSatelliteAnswers : (holdingList 1).phase = .ready ∧ (holdingList 1).st = .holding ∧
    tag (holdingList 1).cfg (holdingList 1).kind = .satelliteList ∧
    (holdingList 1).svCur.toNat < (holdingList 1).svCnt.toNat ∧
    ¬ (holdingList 2).svCur.toNat < (holdingList 2).svCnt.toNat := by decide
theorem witness_PayloadIsWindowOnPacket : 44 < (le16 listP 3).toNat ∧ HoldingInv (holdingList 2) ∧
    tag (holdingList 2).cfg (holdingList 2).kind = .satelliteList ∧ 1 < (holdingList 2).svCnt.toNat :=
  ⟨by decide, holdingList_inv 2 (by decide), by decide, by decide⟩
theorem witness_IterationYieldsAllRecords : (holdingList 0).phase = .ready ∧ (holdingList 0).st = .holding ∧
    tag (holdingList 0).cfg (holdingList 0).kind = .satelliteList ∧ (holdingList 0).svCur = 0 := by decide
theorem witness_CommandFrame : isCommand .nextSatellite = true ∧ isPlainRead .rawPacket = true ∧
    (holdingList 0).phase = .ready ∧ ∃ t, exec .nextSatellite (holdingList 0) = .next t :=
  ⟨rfl, rfl, rfl, _, rfl⟩
theorem witness_DataIsAppended : (waiting []).phase = .waitSrc ∧ 1 ≤ ([0x45] : List Byte).length ∧
    (waiting []).cfg.chunkFits [0x45] = true ∧ chunk2.chunkFits [1, 2] = true ∧
    (0 : Nat) < (waitingHeld []).buf.length := by decide
theorem witness_EosEndsCleanly : (waiting []).phase = .waitSrc := rfl
theorem witness_IoerrTraps : (waitingHeld []).phase = .waitSrc := rfl
theorem witness_OutOfTurnStops : (running []).phase ≠ .ready ∧ isCommand .currentKind = true ∧
    State.reset.phase ≠ .waitSrc ∧ State.reset.cfg.chunkFits [1] = true ∧ (waiting []).phase = .waitSrc ∧
    ({ State.reset with cfg := chunk2 } : State).cfg.chunkMax = some 2 ∧ 2 < ([1, 2, 3] : List Byte).length ∧
    State.reset.phase ≠ .run ∧
    packetParts State.reset.cfg (.unknown 0x10 [] 0x3010) = some (0x10, [], 0x3010) := by decide

/-! ### The step -/

theorem hostWaits_nil : HostWaits [] := by intro e rest h; cases h
theorem hostWaits_command (w : HostWord) : HostWaits [.command w] := by intro e rest h; cases h; exact ⟨w, rfl⟩

theorem witness_StepRunsCommandOrAnswer :
    ({ State.reset with hostQ := [.command (.code 1)] } : State).phase = .ready ∧
    decodeHost (.code 1) = .ok .currentKind ∧ HostWaits (waiting [.eos]).hostQ ∧ (waiting [.eos]).phase = .waitSrc ∧
    (waiting [.eos]).srcQ = [.eos] := ⟨rfl, rfl, hostWaits_nil, rfl, rfl⟩
theorem witness_StepRunsPacket : HostWaits (running bare).hostQ ∧ (running bare).phase = .run ∧
    decodePacket (running bare).cfg (running bare).buf = .ok (.unknown 0x10 [] 0x3010, []) :=
  ⟨hostWaits_nil, rfl, by decide⟩
theorem witness_RunStepActsOnOutcome : HostWaits (running []).hostQ ∧ (running []).phase = .run ∧
    exec .locate (running []) = .next (locateBuf (running [])) ∧
    locator (running []).cfg (running []).buf = .needMore ∧
    locator Params.default (running [0xAA, 0xBB, 0xCC, 0xDD, 0xEE]).buf = .skip 5 ∧
    locator Params.default (running [0x45, 0x52, 0x10, 0x00, 0x00, 0x11, 0x30]).buf =
      .fatal .checksum (0x3010, 0x3011) := ⟨hostWaits_nil, rfl, rfl, rfl, by decide, by decide⟩
theorem witness_WaitingKeepsState : State.reset.hostQ = [] ∧ State.reset.phase = .ready ∧
    (waiting []).phase = .waitSrc ∧ (waiting []).srcQ = [] := by decide
theorem witness_ResetAtAnyTime : ({ running bare with hostQ := [.reset [.eos]] } : State).hostQ = [.reset [.eos]] ∧
    ({ running bare with hostQ := [.reset [.eos]] } : State).phase = .run := by decide
theorem witness_ResetStateAndAnswers : isPlainRead .getDop = true ∧ isPlainRead .currentKind = true := by decide

/-! ### The whole machine -/

theorem witness_StepKeepsInvariant :
    Inv { holdingList 1 with hostQ := [.command (.code 2)] } ∧
    ∃ t, step { holdingList 1 with hostQ := [.command (.code 2)] } = .next t ∧ t.svCur = 2 :=
  ⟨inv_of_ready rfl (fun _ => { holdingList_inv 1 (by decide) with }) rfl rfl rfl, _, rfl, rfl⟩
theorem witness_StepKeepsInvariant_waiting : Inv (waitingHeld [.data [0x10]]) ∧
    ∃ t, step (waitingHeld [.data [0x10]]) = .next t ∧ t.buf = [0x45, 0x52, 0x10] := ⟨waitingHeld_inv _, _, rfl, rfl⟩
theorem witness_NoStepStops :
    HostDuty { State.reset with hostQ := [.command (.code 0), .reset [.data [1, 2]]], cfg := chunk2 } ∧
    SourceDuty { State.reset with srcQ := [.data [1, 2], .eos], cfg := chunk2 } := by
  refine ⟨⟨fun c h => ?_, fun src h c hc => ?_⟩, fun c h => ?_⟩
  · simp only [List.mem_cons, List.not_mem_nil, HostEvent.command.injEq, HostWord.code.injEq, reduceCtorEq,
      or_false] at h
    subst h
    exact ⟨_, rfl⟩
  · simp only [List.mem_cons, List.not_mem_nil, HostEvent.reset.injEq, reduceCtorEq, false_or, or_false] at h
    subst h
    simp only [List.mem_singleton, SrcEvent.data.injEq] at hc
    subst hc
    rfl
  · simp only [List.mem_cons, List.not_mem_nil, SrcEvent.data.injEq, reduceCtorEq, or_false] at h
    subst h
    rfl
theorem witness_ScannerStateMoves : PortInv (waitingHeld [.eos]) ∧
    ∃ t, step (waitingHeld [.eos]) = .next t ∧ t.st = .exhausted := ⟨(waitingHeld_inv _).ports, _, rfl, rfl⟩
theorem witness_StreamHeadMovesForward : (∀ src rest, (running (bare ++ [0x99])).hostQ ≠ .reset src :: rest) ∧
    ∃ t, step (running (bare ++ [0x99])) = .next t ∧ t.pos = 7 := ⟨(by intro _ _ h; cases h), _, rfl, rfl⟩
theorem witness_TerminalStatesAreFinal : PortInv { failed with hostQ := [.command (.code 0)] } ∧ failed.st = .failed ∧
    (∃ t, step { failed with hostQ := [.command (.code 0)] } = .next t) ∧
    (∀ src rest, ({ failed with hostQ := [.command (.code 0)] } : State).hostQ ≠ .reset src :: rest) ∧
    PortInv exhausted ∧ exhausted.st = .exhausted :=
  ⟨portInv_of_ready rfl rfl rfl, rfl, ⟨_, rfl⟩, (by intro _ _ h; cases h),
    portInv_of_ready rfl rfl rfl, rfl⟩
theorem witness_ParametersAreFixed : ∃ t, step (running bare) = .next t ∧ t.st = .holding := ⟨_, rfl, rfl⟩
theorem witness_StepKeepsMemoryForm : Memory.wf (holdingList 0) = true ∧
    ∃ t, step { running bare with st := .idle } = .next t ∧ t.pktLen = 7 := ⟨by decide, _, rfl, rfl⟩
theorem witness_AdvanceAsOneStepAgrees :
    ({ State.reset with hostQ := [.command (.code 0)], srcQ := [.data bare] } : State).phase = .ready ∧
    decodeHost (.code 0) = .ok (.advance none) ∧ HostWaits [] ∧
    SourceDuty { State.reset with hostQ := [.command (.code 0)], srcQ := [.data bare] } :=
  ⟨rfl, rfl, hostWaits_nil, fun _ _ => rfl⟩

end Sys2Proof.Tests
end

/-! PROOFS. Little-endian assembly read as numbers, and the fixedness of the build parameters (00_scope.md R14, R10). -/

namespace Sys2Proof

open Sys2Proof.Machine

/-- Two bit vectors side by side, as numbers: `toNat_append8` at every width. -/
theorem toNat_append_eq_mul_add {m n : Nat} (hi : BitVec m) (lo : BitVec n) :
    (hi ++ lo).toNat = hi.toNat * 2 ^ n + lo.toNat := by
  rw [BitVec.toNat_append, ← Nat.shiftLeft_add_eq_or_of_lt lo.isLt, Nat.shiftLeft_eq]

theorem byteAt_toNat_eq_le16_mod (b : List Byte) (o : Nat) : (byteAt b o).toNat = (le16 b o).toNat % 256 := by
  rw [← loByte_toNat, le16, loByte_append]

theorem byteAt_succ_toNat_eq_le16_div (b : List Byte) (o : Nat) :
    (byteAt b (o + 1)).toNat = (le16 b o).toNat / 256 := by
  rw [← hiByte_toNat, le16, hiByte_append]

theorem le32_toNat (b : List Byte) (o : Nat) :
    (le32 b o).toNat = (byteAt b o).toNat + 2 ^ 8 * (byteAt b (o + 1)).toNat + 2 ^ 16 * (byteAt b (o + 2)).toNat +
      2 ^ 24 * (byteAt b (o + 3)).toNat := by
  have halves : (le32 b o).toNat = (le16 b (o + 2)).toNat * 2 ^ 16 + (le16 b o).toNat :=
    toNat_append_eq_mul_add _ _
  rw [halves, le16_toNat, le16_toNat, Nat.add_assoc o 2 1]
  omega

theorem le64_toNat (b : List Byte) (o : Nat) :
    (le64 b o).toNat = ((List.range 8).map fun k => 2 ^ (8 * k) * (byteAt b (o + k)).toNat).sum := by
  have halves : (le64 b o).toNat = (le32 b (o + 4)).toNat * 2 ^ 32 + (le32 b o).toNat :=
    toNat_append_eq_mul_add _ _
  rw [halves, le32_toNat, le32_toNat]
  simp only [List.range_succ, List.range_zero, List.nil_append, List.cons_append, List.map_cons, List.map_nil,
    List.sum_cons, List.sum_nil, Nat.add_assoc, Nat.reduceAdd, Nat.add_zero]
  omega

/-- `s32` (00_scope.md R14): a pattern below `2^31` is its own value, any other lies `2^32` below it. -/
theorem toInt_eq_ite_lt (v : Word32) :
    v.toInt = if v.toNat < 2 ^ 31 then (v.toNat : Int) else (v.toNat : Int) - 2 ^ 32 := by
  rw [BitVec.toInt_eq_toNat_cond]
  split_ifs <;> omega

/-- Settles O5: each wider read is its two halves side by side, and the two bytes of a `u16` are its low and high
byte (R61). -/
theorem littleEndianAssembly : Obligations.LittleEndianAssembly := fun b o =>
  ⟨le16_toNat b o, byteAt_toNat_eq_le16_mod b o, byteAt_succ_toNat_eq_le16_div b o, le32_toNat b o, le64_toNat b o,
    toInt_eq_ite_lt (le32 b o)⟩

/-- No move writes the build parameters (00_scope.md R10); where the Run step is taken, LOCATE leaves them too. -/
theorem move_cfg {u t : State} (h : Move u t) : t.cfg = u.cfg := by
  cases h with
  | reply | start | record | wait | data | eos | ioerr => rfl
  | ask | skip | fatal | reject | accept => exact locateBuf_cfg u

/-- Settles O58: a reset carries the parameters over, and every other step is a move. -/
theorem parametersAreFixed : Obligations.ParametersAreFixed := by
  intro s t h
  rcases step_moves h with ⟨src, rest, -, rfl⟩ | ⟨q, hm⟩
  · exact rebind_cfg src rest s
  · exact (move_cfg hm :)

end Sys2Proof

/-! PROOFS. The state's windows, frames and reset: what a held list's payload holds, what a host command writes, what
every move keeps of `PKT`, and the state after reset (10_state.md R26, R37, R39, R40). -/

namespace Sys2Proof

open Sys2Proof.Machine

/-! ## PAYLOAD as a window on PKT (10_state.md R37, 20_memory.md R67) -/

theorem byteAt_payloadOf (p : List Byte) {o : Nat} (h : o < payloadLen p) :
    byteAt (payloadOf p) o = byteAt p (5 + o) :=
  byteAt_slice p (by omega)

theorem payloadOf_length {p : List Byte} (h : 5 + payloadLen p ≤ p.length) : (payloadOf p).length = payloadLen p := by
  rw [payloadOf, slice_length p h, Nat.add_sub_cancel_left]

theorem expectedLen_satelliteList {cfg : Params} {k : Byte} (q : List Byte) (h : tag cfg k = .satelliteList) :
    expectedLen cfg k q = some (if q.length < 5 then 5 else 5 + 20 * (byteAt q 4).toNat) := by
  rw [expectedLen, h]
  split_ifs <;> rfl

/-- A held packet has all its payload. -/
theorem HoldingInv.payload_length {s : State} (h : HoldingInv s) :
    (payloadOf s.pkt).length = payloadLen s.pkt := by
  have hsize := h.size
  have hlen := h.pktLen
  exact payloadOf_length (by omega)

/-- The shape check fixes a held list's payload: its fixed part and `SVCNT` sub-records, nothing else. -/
theorem HoldingInv.satelliteList_length {s : State} (h : HoldingInv s) (ht : tag s.cfg s.kind = .satelliteList) :
    (payloadOf s.pkt).length = 5 + 20 * s.svCnt.toNat := by
  have hq := h.payload_length
  have hx := h.shape _ (expectedLen_satelliteList _ ht)
  split_ifs at hx with h5
  · omega
  · have hn : byteAt (payloadOf s.pkt) 4 = byteAt s.pkt 9 := byteAt_payloadOf s.pkt (by omega)
    rw [hq, hx, hn, (h.cursor ht).1]

/-- Settles O39: PAYLOAD is a slice of PKT, and the shape check leaves room for every sub-record. -/
theorem payloadIsWindowOnPacket : Obligations.PayloadIsWindowOnPacket := by
  refine ⟨fun p o ho => byteAt_payloadOf p ho, fun s i h ht hi => ?_⟩
  have hlen := h.satelliteList_length ht
  have hbase : subBase i = 5 + 20 * i := rfl
  exact ⟨by omega, hlen⟩

/-! ## The host commands (44_scanner.md R191, R194, R204 to R206; 43_satellite_iterator.md R181) -/

/-- What a typed accessor answers (R205); `mine` decides whether the current tag is its own. -/
def typedReply (mine : Bool) (s : State) : Response :=
  if s.st = .holding ∧ mine = true then .value s.val else .invalid

/-- What each of the nine plain reads answers (R204 to R206). -/
def plainReply (i : Instr) (s : State) : Response :=
  match i with
  | .currentKind => if s.st = .holding then .ok (tag s.cfg s.kind) s.kind else .invalid
  | .rawPacket => if s.st = .holding then .bytes (s.pkt.take s.pktLen.toNat) else .invalid
  | .getVersion => typedReply (decide (tag s.cfg s.kind = .version)) s
  | .getPosition => typedReply (decide (tag s.cfg s.kind = .position)) s
  | .getStatus => typedReply (decide (tag s.cfg s.kind = .status)) s
  | .getDop => typedReply (decide (tag s.cfg s.kind = .dilutionOfPrecision)) s
  | .getVelocity => typedReply (decide (tag s.cfg s.kind = .velocity)) s
  | .getSatlist => typedReply (decide (tag s.cfg s.kind = .satelliteList)) s
  | .getUnknown => typedReply (!tagKnown (tag s.cfg s.kind)) s
  | _ => .invalid

theorem accessor_eq_typedReply (mine : Bool) (s : State) :
    accessor mine s = whenReady (answer (typedReply mine s) s) s := by
  unfold accessor typedReply
  split_ifs <;> rfl

/-- A plain read, accepted at Ready alone, gives its answer and does nothing else. -/
theorem exec_plainRead {i : Instr} (h : isPlainRead i = true) (s : State) :
    exec i s = whenReady (answer (plainReply i s) s) s := by
  cases i with
  | currentKind | rawPacket => exact congrArg (whenReady · s) (apply_ite (answer · s) _ _ _).symm
  | getVersion | getPosition | getStatus | getDop | getVelocity | getSatlist | getUnknown =>
    exact accessor_eq_typedReply _ s
  | _ => cases h

/-- No plain read's answer depends on the response that stands before it. -/
theorem plainReply_answer (i : Instr) (r : Response) (s : State) : plainReply i (answer r s) = plainReply i s := by
  cases i <;> rfl

theorem plainReply_of_not_holding (i : Instr) {s : State} (h : s.st ≠ .holding) : plainReply i s = .invalid := by
  cases i with
  | currentKind | rawPacket => exact if_neg h
  | getVersion | getPosition | getStatus | getDop | getVelocity | getSatlist | getUnknown =>
    exact if_neg fun hm => h hm.1
  | _ => rfl

/-- A plain read accepted and asked again answers the same and leaves the same state (20_memory.md R64). -/
theorem exec_plainRead_idempotent {i : Instr} {s : State} (h : isPlainRead i = true) (hp : s.phase = .ready) :
    exec i s = .next (answer (plainReply i s) s) ∧
      exec i (answer (plainReply i s) s) = .next (answer (plainReply i s) s) := by
  constructor
  · rw [exec_plainRead h, whenReady_ready hp]
  · rw [exec_plainRead h, plainReply_answer]
    exact whenReady_ready hp

theorem acceptAdvance_cases (d : Option Token) (s : State) :
    (∃ r, acceptAdvance d s = answer r s) ∨ acceptAdvance d s = startAdvance d s := by
  unfold acceptAdvance
  split
  · exact .inl ⟨_, rfl⟩
  · exact .inl ⟨_, rfl⟩
  · exact .inr rfl
  · exact .inr rfl

theorem acceptNext_cases (s : State) :
    (∃ r, acceptNext s = answer r { s with svCur := s.svCur + 1 }) ∨ acceptNext s = answer .endOfSequence s := by
  unfold acceptNext
  split_ifs
  · exact .inl ⟨_, rfl⟩
  · exact .inr rfl

theorem isCommand_cases {i : Instr} (h : isCommand i = true) :
    isPlainRead i = true ∨ i = .nextSatellite ∨ ∃ d, i = .advance d := by
  cases i with
  | advance d => exact .inr (.inr ⟨d, rfl⟩)
  | nextSatellite => exact .inr (.inl rfl)
  | _ => exact .inl h

/-- All a host command can write: a response; with it the cursor, if it is NEXT_SATELLITE; or what takes an ADVANCE in
flight (10_state.md R40). -/
theorem command_next {i : Instr} {s t : State} (hc : isCommand i = true) (h : exec i s = .next t) :
    (∃ r, t = answer r s) ∨ (i = .nextSatellite ∧ ∃ r, t = answer r { s with svCur := s.svCur + 1 }) ∨
      ∃ d, i = .advance d ∧ t = startAdvance d s := by
  rcases isCommand_cases hc with hr | rfl | ⟨d, rfl⟩
  · rw [exec_plainRead hr] at h
    exact .inl ⟨_, (whenReady_next.1 h).2⟩
  · obtain ⟨-, rfl⟩ := whenReady_next.1 h
    rcases acceptNext_cases s with hn | he
    · exact .inr (.inl ⟨rfl, hn⟩)
    · exact .inl ⟨_, he⟩
  · obtain ⟨-, rfl⟩ := whenReady_next.1 h
    rcases acceptAdvance_cases d s with ha | hs
    · exact .inl ha
    · exact .inr (.inr ⟨d, rfl, hs⟩)

/-- Settles O41: the frame of each of the three things a command can do, and the plain reads asked twice. -/
theorem commandFrame : Obligations.CommandFrame := by
  constructor
  · intro i s t hc h
    rcases command_next hc h with ⟨r, rfl⟩ | ⟨rfl, r, rfl⟩ | ⟨d, rfl, rfl⟩
    · exact ⟨rfl, fun _ => rfl, fun _ => ⟨rfl, rfl⟩⟩
    · exact ⟨rfl, fun hne => absurd rfl hne, fun _ => ⟨rfl, rfl⟩⟩
    · exact ⟨rfl, fun _ => rfl, fun hne => absurd rfl (hne d)⟩
  · intro i s hr hp
    obtain ⟨hfirst, hagain⟩ := exec_plainRead_idempotent hr hp
    exact ⟨_, hfirst, hagain, rfl⟩

/-! ## The form of PKT (10_state.md R26, R37) -/

/-- A move leaves `ST`, `PKT` and `PKTLEN` alone, leaves Holding, or holds a packet whose length fits `PKTLEN`. -/
theorem memory_wf_move {u t : State} (hu : Memory.wf u = true) (h : Move u t) : Memory.wf t = true := by
  have hl : Memory.wf (locateBuf u) = true := by rw [memory_wf_locateBuf, hu]
  cases h with
  | reply | start | record | wait | data => exact hu
  | ask | skip => exact hl
  | eos => exact memory_wf_endStream _
  | ioerr | fatal | reject => exact memory_wf_trap _ _ _
  | accept k q ck v _ _ hq => exact memory_wf_hold k ck v _ hq

/-- Settles O59: a reset holds nothing, and every other step is a move. -/
theorem stepKeepsMemoryForm : Obligations.StepKeepsMemoryForm := by
  intro s t hs h
  rcases step_moves h with ⟨src, rest, -, rfl⟩ | ⟨q, hm⟩
  · exact memory_wf_rebind src rest s
  · exact memory_wf_move (u := { s with hostQ := q }) hs hm

/-! ## The state after reset (10_state.md R39, 70_reset_and_hazards.md R253) -/

/-- Settles O51: no packet is held after reset, so every plain read is INVALID and there is no record to give. -/
theorem resetStateAndAnswers : Obligations.ResetStateAndAnswers := by
  refine ⟨rfl, rfl, rfl, rfl, fun i hi => ?_, rfl⟩
  have hidle : State.reset.st ≠ .holding := by decide
  rw [exec_plainRead hi, whenReady_ready rfl, plainReply_of_not_holding i hidle]
  rfl

/-- Settles O52: the default kind codes are distinct, nothing is held, in flight, asked for or buffered. -/
theorem resetMeetsInvariant : Obligations.ResetMeetsInvariant where
  params := by decide
  holding := nofun
  ports :=
    { inFlight := fun hp => absurd rfl hp
      atRest := fun _ => rfl
      asking := nofun
      notAsking := fun _ => rfl }
  buffer :=
    { whenAsked := nofun
      always := nofun }

end Sys2Proof

/-! PROOFS. The kind byte, the packet's encoding and its decoding, packet items under LOCATE, and the document's scaling
examples (30_encoding.md R90 to R108). -/

namespace Sys2Proof

open Sys2Proof.Machine

/-! ## The kind byte (30_encoding.md R94, 00_scope.md R9) -/

/-- The kind byte a tag stands for: the way back from `tag`. -/
def tagCode (cfg : Params) : Tag → Byte
  | .version => cfg.kindVersion
  | .position => cfg.kindPosition
  | .status => cfg.kindStatus
  | .dilutionOfPrecision => cfg.kindDop
  | .velocity => cfg.kindVelocity
  | .satelliteList => cfg.kindSatlist
  | .unknown k => k

/-- Every assignment of the codes, distinct or not, lets the byte be read off its tag. -/
theorem tagCode_tag (cfg : Params) (k : Byte) : tagCode cfg (tag cfg k) = k := by
  unfold tag
  split_ifs with h1 h2 h3 h4 h5 h6
  · exact h1.symm
  · exact h2.symm
  · exact h3.symm
  · exact h4.symm
  · exact h5.symm
  · exact h6.symm
  · rfl

theorem tag_tagCode {cfg : Params} {t : Tag} (h : cfg.wf = true) (ht : tagKnown t = true) :
    tag cfg (tagCode cfg t) = t := by
  obtain ⟨hv, hp, hs, hd, hw, hl⟩ := tag_of_kinds h
  cases t with
  | version => exact hv
  | position => exact hp
  | status => exact hs
  | dilutionOfPrecision => exact hd
  | velocity => exact hw
  | satelliteList => exact hl
  | unknown => cases ht

theorem tag_eq_iff {cfg : Params} {t : Tag} (h : cfg.wf = true) (ht : tagKnown t = true) (k : Byte) :
    tag cfg k = t ↔ k = tagCode cfg t := by
  constructor
  · rintro rfl
    exact (tagCode_tag cfg k).symm
  · rintro rfl
    exact tag_tagCode h ht

theorem tagKnown_tag_iff (cfg : Params) (k : Byte) : tagKnown (tag cfg k) = true ↔ k ∈ cfg.kinds := by
  constructor
  · intro h
    by_contra hk
    rw [tag_of_unknown hk] at h
    cases h
  · intro h
    unfold tag
    split_ifs with h1 h2 h3 h4 h5 h6
    case neg => simp [Params.kinds, h1, h2, h3, h4, h5, h6] at h
    all_goals rfl

theorem tag_eq_unknown_iff {cfg : Params} {k k' : Byte} : tag cfg k = .unknown k' ↔ k' = k ∧ k ∉ cfg.kinds := by
  constructor
  · intro h
    have hcode := tagCode_tag cfg k
    have hknown := tagKnown_tag_iff cfg k
    rw [h] at hcode hknown
    exact ⟨hcode, fun hk => nomatch hknown.2 hk⟩
  · rintro ⟨rfl, hk⟩
    exact tag_of_unknown hk

/-! ### Counting the bytes -/

/-- The 256 byte values, in order. -/
def allBytes : List Byte := (List.range 256).map (BitVec.ofNat 8)

theorem mem_allBytes (k : Byte) : k ∈ allBytes :=
  List.mem_map.2 ⟨k.toNat, List.mem_range.2 k.isLt, (BitVec.ofNat_toNat 8 k).trans (BitVec.setWidth_eq k)⟩

theorem allBytes_nodup : allBytes.Nodup := by
  refine List.Nodup.map_on (fun a ha b hb hab => ?_) List.nodup_range
  have hmod : a % 256 = b % 256 := congrArg BitVec.toNat hab
  rwa [Nat.mod_eq_of_lt (List.mem_range.1 ha), Nat.mod_eq_of_lt (List.mem_range.1 hb)] at hmod

theorem kinds_nodup {cfg : Params} (h : cfg.wf = true) : cfg.kinds.Nodup := by
  simp only [Params.wf, Bool.and_eq_true, decide_eq_true_eq] at h
  exact h.1

/-- The known bytes are the six kind codes, each once. -/
theorem filter_tagKnown_perm_kinds {cfg : Params} (h : cfg.wf = true) :
    (allBytes.filter fun k => tagKnown (tag cfg k)).Perm cfg.kinds := by
  refine (List.perm_ext_iff_of_nodup (allBytes_nodup.filter _) (kinds_nodup h)).2 fun k => ?_
  rw [List.mem_filter, tagKnown_tag_iff]
  exact and_iff_right (mem_allBytes k)

theorem unknownBytes_length {cfg : Params} (h : cfg.wf = true) :
    (allBytes.filter fun k => !tagKnown (tag cfg k)).length = 250 := by
  have hsplit := allBytes.length_eq_length_filter_add fun k => tagKnown (tag cfg k)
  have hall : allBytes.length = 256 := by rw [allBytes, List.length_map, List.length_range]
  have hknown : (allBytes.filter fun k => tagKnown (tag cfg k)).length = 6 := (filter_tagKnown_perm_kinds h).length_eq
  omega

/-- Settles O6: a tag has one byte, a known tag's byte has that tag where the codes are distinct, and 250 of the 256
bytes are none of the six codes. -/
theorem kindByteClassification : Obligations.KindByteClassification := fun _ h =>
  ⟨tag_eq_iff h rfl, tag_eq_iff h rfl, tag_eq_iff h rfl, tag_eq_iff h rfl, tag_eq_iff h rfl, tag_eq_iff h rfl,
    fun _ _ => tag_eq_unknown_iff, unknownBytes_length h⟩

/-! ## Packets: the encoding and the instruction it stands for (30_encoding.md R90, R94) -/

theorem encode_of_packetParts {cfg : Params} {i : Instr} {k : Byte} {q : List Byte} {ck : Word16}
    (h : packetParts cfg i = some (k, q, ck)) : encode cfg i = some (.stream (packetBytes k q ck)) := by
  cases i with
  | version | position | status | dilutionOfPrecision | velocity | satelliteList | unknown => cases h; rfl
  | _ => cases h

/-- Only the packets are encoded as bytes of the stream (R104). -/
theorem packetParts_of_encode {cfg : Params} {i : Instr} {p : List Byte} (h : encode cfg i = some (.stream p)) :
    ∃ k q ck, packetParts cfg i = some (k, q, ck) ∧ p = packetBytes k q ck := by
  cases i with
  | version | position | status | dilutionOfPrecision | velocity | satelliteList | unknown =>
    cases h
    exact ⟨_, _, _, rfl, rfl⟩
  | advance d => cases d <;> cases h
  | _ => cases h

theorem payload_length_of_wf {cfg : Params} {i : Instr} {k : Byte} {q : List Byte} {ck : Word16}
    (hi : i.wf cfg = true) (h : packetParts cfg i = some (k, q, ck)) : q.length ≤ 65535 := by
  cases i with
  | version | position | status | dilutionOfPrecision | velocity | satelliteList =>
    cases h
    exact of_decide_eq_true hi
  | unknown =>
    cases h
    exact of_decide_eq_true (Bool.and_eq_true_iff.1 hi).1
  | _ => cases h

/-- A well-formed packet is the one its kind byte selects: its code has its tag, and the byte of an Unknown packet is
none of the codes. -/
theorem kindInstr_of_packetParts {cfg : Params} {i : Instr} {k : Byte} {q : List Byte} {ck : Word16}
    (hw : cfg.wf = true) (hi : i.wf cfg = true) (h : packetParts cfg i = some (k, q, ck)) :
    kindInstr cfg k q ck = i := by
  have htags := tag_of_kinds hw
  cases i with
  | version | position | status | dilutionOfPrecision | velocity | satelliteList =>
    cases h
    simp only [kindInstr, htags]
  | unknown k q ck =>
    cases h
    have hk : k ∉ cfg.kinds := by simpa using (Bool.and_eq_true_iff.1 hi).2
    rw [kindInstr, tag_of_unknown hk]
  | _ => cases h

/-- What a kind byte selects is well formed, whatever the codes. -/
theorem kindInstr_wf (cfg : Params) (k : Byte) {q : List Byte} (ck : Word16) (hq : q.length ≤ 65535) :
    (kindInstr cfg k q ck).wf cfg = true := by
  have hfits : payloadFits q = true := decide_eq_true hq
  unfold kindInstr
  cases ht : tag cfg k with
  | unknown k' =>
    obtain ⟨rfl, hk⟩ := tag_eq_unknown_iff.1 ht
    simp [Instr.wf, hfits, hk]
  | _ => exact hfits

/-- The packet at the head is read whole and the bytes after it are left (R91, R103). -/
theorem decodePacket_packetBytes (cfg : Params) (k : Byte) {q : List Byte} (ck : Word16) (rest : List Byte)
    (hq : q.length ≤ 65535) :
    decodePacket cfg (packetBytes k q ck ++ rest) = .ok (kindInstr cfg k q ck, rest) := by
  have hT : totalLen (packetBytes k q ck ++ rest) = (packetBytes k q ck).length := by
    rw [totalLen_packetBytes k ck rest hq, packetBytes_length]
  have h5 : ¬ (packetBytes k q ck ++ rest).length < Config.hdrLen := by
    rw [List.length_append, packetBytes_length, Config.hdrLen]
    omega
  rw [decodePacket, if_neg h5, aligned_packetBytes, if_neg (by decide), hT, if_neg (by simp),
    List.take_left, List.drop_left, packetInstr_packetBytes cfg k ck hq]

/-- A byte string read as a packet is that packet's bytes and the rest. -/
theorem decodePacket_ok {cfg : Params} {b : List Byte} {i : Instr} {rest : List Byte}
    (h : decodePacket cfg b = .ok (i, rest)) :
    ∃ k q ck, q.length ≤ 65535 ∧ b = packetBytes k q ck ++ rest ∧ i = kindInstr cfg k q ck := by
  unfold decodePacket at h
  split_ifs at h with h5 ha hT
  cases h
  have hlen : 5 ≤ b.length := Nat.le_of_not_lt h5
  have hm : MarkerAt b 0 := (aligned_iff (by omega)).1 (by simpa using ha)
  obtain ⟨k, q, ck, hq, hp, -⟩ := packet_at_head hlen hm (Nat.le_of_not_lt hT)
  refine ⟨k, q, ck, hq, ?_, ?_⟩
  · rw [← hp, List.take_append_drop]
  · rw [hp, packetInstr_packetBytes cfg k ck hq]

/-- Settles O2: a well-formed packet's bytes are those of its parts, and its kind byte selects it. -/
theorem packetReadBeforeAnyTail : Obligations.PacketReadBeforeAnyTail := by
  intro cfg i p rest hw hi he
  obtain ⟨k, q, ck, hparts, rfl⟩ := packetParts_of_encode he
  rw [decodePacket_packetBytes cfg k ck rest (payload_length_of_wf hi hparts), kindInstr_of_packetParts hw hi hparts]

/-! ## Words of the host port (30_encoding.md R105) -/

/-- Only the host commands are encoded as words of the host port, each under its own code (R104, R105). -/
theorem decodeHost_of_encode {cfg : Params} {i : Instr} {w : HostWord} (h : encode cfg i = some (.host w)) :
    decodeHost w = .ok i := by
  cases i with
  | advance d => exact Laws.EncodingForm.advance d cfg _ h
  | currentKind | nextSatellite | rawPacket | getVersion | getPosition | getStatus | getDop | getVelocity | getSatlist
  | getUnknown =>
    cases h
    rfl
  | _ => cases h

theorem encode_of_decodeCode (cfg : Params) {c : BitVec 4} {i : Instr} (h : decodeCode c = .ok i) :
    encode cfg i = some (.host (.code c)) := by
  have hc : c = BitVec.ofNat 4 c.toNat := ((BitVec.ofNat_toNat 4 c).trans (BitVec.setWidth_eq c)).symm
  unfold decodeCode at h
  split at h
  case h_12 => cases h
  all_goals
    rename_i hn
    rw [hc, hn]
    cases h
    rfl

theorem encode_of_decodeHost (cfg : Params) {w : HostWord} {i : Instr} (h : decodeHost w = .ok i) :
    encode cfg i = some (.host w) := by
  cases w with
  | code c => exact encode_of_decodeCode cfg h
  | advanceBy d =>
    cases h
    rfl

/-! ## The two round trips -/

/-- Settles O1: a packet alone is a packet before the empty tail; a host command has one word. -/
theorem decodeOfEncode : Obligations.DecodeOfEncode := by
  intro cfg i e hw hi he
  cases e with
  | stream p =>
    have hread := packetReadBeforeAnyTail cfg i p [] hw hi he
    rw [List.append_nil] at hread
    rw [decode, hread]
  | host w => exact decodeHost_of_encode he

/-- Settles O3: the bytes read are the parts of what the kind byte selects, and every code names one command. -/
theorem encodeOfDecode : Obligations.EncodeOfDecode := by
  intro cfg
  constructor
  · intro b i rest h
    obtain ⟨k, q, ck, hq, rfl, rfl⟩ := decodePacket_ok h
    exact ⟨kindInstr_wf cfg k ck hq, _, encode_of_packetParts (kindInstr_parts cfg k q ck).1, rfl⟩
  · exact fun w i => encode_of_decodeHost cfg

/-! ## Packet items (30_encoding.md R108, 41_frame_locator.md R135, R136) -/

theorem shapeFault_eq_none {cfg : Params} {k : Byte} {q : List Byte}
    (h : ∀ x, expectedLen cfg k q = some x → q.length = x) : shapeFault cfg k q = none := by
  unfold shapeFault
  cases hx : expectedLen cfg k q with
  | none => rfl
  | some x => exact if_pos (h x hx)

theorem validPacket_valid {cfg : Params} {k : Byte} {q : List Byte} (hq : q.length ≤ 65535)
    (hs : shapeFault cfg k q = none) : ValidPacket cfg (validPacket k q) := by
  have hloc := locator_packet cfg k q (checksum (covered k q)) [] hq
  rw [List.append_nil, packetFault_eq, if_pos rfl, hs] at hloc
  rw [ValidPacket, validPacket, hloc, packetBytes_length]

/-- Adding 1 to the low byte of a 16-bit value changes the value, wherever the sum wraps. -/
theorem ne_hiByte_append_loByte_add_one (v : Word16) : v ≠ hiByte v ++ (loByte v + 1) := by
  intro h
  have hlow := congrArg loByte h
  rw [loByte_append] at hlow
  bv_omega

theorem locator_badPacket (cfg : Params) (k : Byte) {q : List Byte} (hq : q.length ≤ 65535) :
    ∃ r, locator cfg (badPacket k q) = .fatal .checksum ((checksum (covered k q)).toNat, r) := by
  have hloc := locator_packet cfg k q (hiByte (checksum (covered k q)) ++ (loByte (checksum (covered k q)) + 1)) [] hq
  rw [List.append_nil, packetFault_eq, if_neg (ne_hiByte_append_loByte_add_one _)] at hloc
  exact ⟨_, hloc⟩

/-- Settles O18: LOCATE on a packet is its checks; the right checksum leaves the shape, the wrong one is found first. -/
theorem packetItemsAreLocated : Obligations.PacketItemsAreLocated := fun cfg k _ hq =>
  ⟨fun hx => validPacket_valid hq (shapeFault_eq_none hx), locator_badPacket cfg k hq⟩

/-! ## The document's scaling examples (30_encoding.md R97, 00_scope.md R17) -/

theorem scaledValue_of_num_one (raw : Int) (den : Nat) (u : PhysUnit) : scaledValue ⟨raw, 1, den, u⟩ = raw / den := by
  rw [scaledValue, Nat.cast_one, mul_one]

/-- Settles O8: each reading is its raw value over its factor, and the three renderings are the document's. -/
theorem scalingExamples : Obligations.ScalingExamples := by
  intro d v r
  refine ⟨fun h => ?_, fun h => ?_, fun h => ?_⟩
  · have hr : readGeometric d = ⟨123, 1, 100, .dimensionless⟩ := by rw [readGeometric, h]; rfl
    rw [hr, scaledValue_of_num_one]
    exact ⟨by norm_num, rfl⟩
  · have hr : readHeading v = ⟨1000000, 1, 100000, .degrees⟩ := by rw [readHeading, h]; rfl
    rw [hr, scaledValue_of_num_one]
    exact ⟨by norm_num, rfl⟩
  · have hr : readSignalStrength r = ⟨160, 1, 4, .decibelHertz⟩ := by rw [readSignalStrength, h]; rfl
    rw [hr, scaledValue_of_num_one]
    exact ⟨by norm_num, rfl⟩

end Sys2Proof

/-! PROOFS. The Checksum unit: its three operations, the loop they run, and the closed form and detection laws of the
value (40_checksum.md R120 to R126). -/

namespace Sys2Proof

open Sys2Proof.Machine

/-! ## The unit's operations (40_checksum.md R121 to R123) -/

theorem exec_ckClear (s : State) : exec .ckClear s = .next (setCk (0, 0) s) := rfl

theorem exec_ckUpdate (x : Byte) (s : State) :
    exec (.ckUpdate x) s = .next (setCk (ckAdd (s.ckA, s.ckB) x) s) := rfl

theorem exec_ckResult (s : State) :
    exec .ckResult s = .next { s with unitOut := some (.checksum (ckValue (s.ckA, s.ckB))) } := rfl

/-- Settles O9. -/
theorem ckClearClearsBoth : Obligations.CkClearClearsBoth := exec_ckClear

/-- Settles O10: both additions are those of 8-bit words. -/
theorem ckUpdateAddsTwice : Obligations.CkUpdateAddsTwice := fun x s =>
  ⟨setCk (ckAdd (s.ckA, s.ckB) x) s, exec_ckUpdate x s, rfl, BitVec.toNat_add _ _, BitVec.toNat_add _ _⟩

/-- Settles O11: the two accumulators side by side are the number `CKB*256 + CKA`. -/
theorem ckResultReturnsValue : Obligations.CkResultReturnsValue := fun s =>
  ⟨ckValue (s.ckA, s.ckB), exec_ckResult s, ckValue_toNat (s.ckA, s.ckB)⟩

/-! ## The loop of CHECKSUM (40_checksum.md R120) -/

theorem execAll_cons_of_next {i : Instr} {s t : State} (rest : List Instr) (h : exec i s = .next t) :
    execAll (i :: rest) s = execAll rest t := by
  rw [execAll, h]

/-- One update per byte, from any accumulators, carries the loop's accumulators along and writes nothing else. -/
theorem execAll_ckUpdates (x : List Byte) (rest : List Instr) (ab : Byte × Byte) (s : State) :
    execAll (x.map Instr.ckUpdate ++ rest) (setCk ab s) = execAll rest (setCk (x.foldl ckAdd ab) s) := by
  induction x generalizing ab with
  | nil => rfl
  | cons y x ih =>
    calc execAll ((y :: x).map Instr.ckUpdate ++ rest) (setCk ab s)
        = execAll (x.map Instr.ckUpdate ++ rest) (setCk (ckAdd ab y) s) :=
          execAll_cons_of_next _ (exec_ckUpdate y _)
      _ = execAll rest (setCk ((y :: x).foldl ckAdd ab) s) := ih (ckAdd ab y)

/-- Settles O12: the clear starts the loop at zero, the updates run it, the result puts its accumulators together. -/
theorem unitComputesChecksum : Obligations.UnitComputesChecksum := by
  refine ⟨fun x s => ?_, rfl⟩
  rw [execAll_cons_of_next _ (exec_ckClear s), execAll_ckUpdates, execAll_cons_of_next _ (exec_ckResult _)]
  rfl

/-! ## The closed form (40_checksum.md R126) -/

theorem checksum_low (x : List Byte) : (checksum x).toNat % 256 = (ckFold x).1.toNat := ckValue_low _

theorem checksum_high (x : List Byte) : (checksum x).toNat / 256 = (ckFold x).2.toNat := ckValue_high _

theorem checksum_eq_iff {x y : List Byte} : checksum x = checksum y ↔ ckFold x = ckFold y := ckValue_inj

theorem ckFold_cons_fst (b : Byte) (x : List Byte) : (ckFold (b :: x)).1 = b + (ckFold x).1 :=
  (foldl_ckAdd_fst x (ckAdd (0, 0) b)).trans (by simp)

/-- The first of `n + 1` bytes is added to the second accumulator once on its own and once with each later byte. -/
theorem ckFold_cons_snd (b : Byte) (x : List Byte) :
    (ckFold (b :: x)).2 = b + BitVec.ofNat 8 x.length * b + (ckFold x).2 :=
  (foldl_ckAdd_snd x (ckAdd (0, 0) b)).trans (by simp)

/-- The sum of R126 in which byte `i` of `n` counts `n - i` times. -/
def weightedSum (x : List Byte) : Nat :=
  ((List.range x.length).map fun i => (x.length - i) * (byteAt x i).toNat).sum

theorem weightedSum_cons (b : Byte) (x : List Byte) :
    weightedSum (b :: x) = (x.length + 1) * b.toNat + weightedSum x := by
  simp [weightedSum, List.range_succ_eq_map, Function.comp_def]

theorem ckFold_fst_toNat (x : List Byte) : (ckFold x).1.toNat = (x.map BitVec.toNat).sum % 256 := by
  induction x with
  | nil => rfl
  | cons b x ih => simp [ckFold_cons_fst, ih]

theorem ckFold_snd_toNat (x : List Byte) : (ckFold x).2.toNat = weightedSum x % 256 := by
  induction x with
  | nil => rfl
  | cons b x ih =>
    simp [ckFold_cons_snd, ih, weightedSum_cons, Nat.add_mul, Nat.add_comm]

/-! ## The detection laws (40_checksum.md R126 (a), (b), (d)) -/

theorem ckFold_append_cons_fst (x z : List Byte) (u : Byte) :
    (ckFold (x ++ u :: z)).1 = (ckFold x).1 + u + (ckFold z).1 := by
  rw [ckFold_append, List.foldl_cons, foldl_ckAdd_fst, ckAdd_fst]

/-- Law (a): one byte replaced by another moves the sum of the bytes by a difference that is not 0 modulo 256. -/
theorem ckFold_set_fst_ne {x : List Byte} {j : Nat} {b : Byte} (hj : j < x.length) (hb : byteAt x j ≠ b) :
    (ckFold (x.set j b)).1 ≠ (ckFold x).1 := by
  obtain ⟨p, z, hx, -, hset⟩ := List.exists_of_set (a' := b) hj
  have hget : x[j] = byteAt x j := (List.getD_eq_getElem x 0 hj).symm
  have hfold : (ckFold x).1 = (ckFold p).1 + byteAt x j + (ckFold z).1 := by
    rw [← ckFold_append_cons_fst, ← hget, ← hx]
  rw [hset, ckFold_append_cons_fst, hfold]
  exact fun h => hb (add_left_cancel (add_right_cancel h)).symm

/-- Law (b), first half: the sum of the bytes does not see their order. -/
theorem ckFold_swap_fst (x z : List Byte) (u v : Byte) :
    (ckFold (x ++ u :: v :: z)).1 = (ckFold (x ++ v :: u :: z)).1 := by
  simp only [ckFold_append_cons_fst, ckFold_cons_fst]
  ring

/-- Law (b), second half: an exchange of neighbours changes the second accumulator by their difference. -/
theorem ckFold_swap_snd (x z : List Byte) (u v : Byte) :
    (ckFold (x ++ u :: v :: z)).2 = (ckFold (x ++ v :: u :: z)).2 + (u - v) := by
  simp only [ckFold_append, List.foldl_cons, foldl_ckAdd_snd z, ckAdd_fst, ckAdd_snd]
  ring

theorem checksum_swap_ne (x z : List Byte) {u v : Byte} (huv : u ≠ v) :
    checksum (x ++ u :: v :: z) ≠ checksum (x ++ v :: u :: z) := by
  intro h
  have hb := congrArg Prod.snd (checksum_eq_iff.1 h)
  rw [ckFold_swap_snd, add_eq_left, sub_eq_zero] at hb
  exact huv hb

/-- Law (d): the two checksums agree exactly where the added accumulator is 0. -/
theorem checksum_append_zero_eq_iff (x : List Byte) : checksum (x ++ [0]) = checksum x ↔ (ckFold x).1 = 0 := by
  rw [checksum_eq_iff, ckFold_snoc, Prod.ext_iff]
  simp

/-- Settles O13: the closed form by the two sums, laws (a) and (b) by what they do to an accumulator, law (c) as the
loop's own continuation, law (d) by one more turn of the loop. -/
theorem checksumLaws : Obligations.ChecksumLaws := by
  refine ⟨fun x => ⟨?_, ?_⟩, fun x j b hj hb => ?_, fun x z u v huv => ⟨?_, checksum_swap_ne x z huv⟩,
    fun x y => congrArg ckValue (ckFold_append x y), fun x => ⟨?_, ?_, (checksum_append_zero_eq_iff x).not⟩⟩
  · exact (checksum_low x).trans (ckFold_fst_toNat x)
  · exact (checksum_high x).trans (ckFold_snd_toNat x)
  · rw [checksum_low, checksum_low]
    exact fun h => ckFold_set_fst_ne hj hb (BitVec.eq_of_toNat_eq h)
  · rw [checksum_low, checksum_low, ckFold_swap_fst]
  · simp [ckFold_snoc]
  · simp [ckFold_snoc]

end Sys2Proof

/-! PROOFS. The Frame Locator: its six steps one by one, what a valid packet keeps under garbage, partial delivery and a
changed byte, the traps of a packet that fails a check, and that no step stops (41_frame_locator.md R130 to R141,
60_exceptions.md R221, R222, R228). -/

namespace Sys2Proof

open Sys2Proof.Machine

/-! ## The checks of a packet (41_frame_locator.md R135, R136) -/

theorem packetFault_of_checksum_ne (cfg : Params) {k : Byte} {q : List Byte} {ck : Word16}
    (h : checksum (covered k q) ≠ ck) :
    packetFault cfg (covered k q) ck = some (.checksum, ((checksum (covered k q)).toNat, ck.toNat)) := by
  rw [packetFault_eq, if_neg h]

theorem shapeFault_of_length_ne {cfg : Params} {k : Byte} {q : List Byte} {x : Nat}
    (hx : expectedLen cfg k q = some x) (hne : q.length ≠ x) :
    shapeFault cfg k q = some (.shape, (x, q.length)) := by
  simp only [shapeFault, hx, if_neg hne]

theorem packetFault_of_length_ne {cfg : Params} {k : Byte} {q : List Byte} {ck : Word16} {x : Nat}
    (hc : checksum (covered k q) = ck) (hx : expectedLen cfg k q = some x) (hne : q.length ≠ x) :
    packetFault cfg (covered k q) ck = some (.shape, (x, q.length)) := by
  rw [packetFault_eq, if_pos hc, shapeFault_of_length_ne hx hne]

/-- The shape check passes exactly the payloads of the expected length (`shapeFault_eq_none` is one half). -/
theorem shapeFault_eq_none_iff {cfg : Params} {k : Byte} {q : List Byte} :
    shapeFault cfg k q = none ↔ ∀ x, expectedLen cfg k q = some x → q.length = x := by
  refine ⟨fun h x hx => ?_, shapeFault_eq_none⟩
  by_contra hne
  rw [shapeFault_of_length_ne hx hne] at h
  cases h

/-! ## LOCATE as an operation (41_frame_locator.md R130, R135) -/

theorem exec_locate (s : State) : exec .locate s = .next (locateBuf s) := rfl

theorem locateBuf_frame (s : State) :
    locateBuf s = { s with
      ckA := (locateBuf s).ckA, ckB := (locateBuf s).ckB, unitOut := some (.located (locator s.cfg s.buf)) } := by
  unfold locateBuf
  split <;> rfl

/-- Settles O14: LOCATE's frame, and the accumulators by whether step 4 is reached. -/
theorem locateReturnsOutcome : Obligations.LocateReturnsOutcome := by
  refine fun s => ⟨locateBuf s, exec_locate s, locateBuf_frame s, fun h5 ha hT => ?_, fun hn => ?_⟩
  · have hr : reachesChecksum s.buf = true := (reachesChecksum_iff _).2 ⟨h5, ha, hT⟩
    rw [locateBuf_ckA, locateBuf_ckB, if_pos hr, if_pos hr, coveredOf_take, checksum]
  · have hr : ¬ reachesChecksum s.buf = true := mt (reachesChecksum_iff _).1 hn
    rw [locateBuf_ckA, locateBuf_ckB, if_neg hr, if_neg hr]
    exact ⟨rfl, rfl⟩

/-! ## Steps 1 to 3: too short, garbage, incomplete (41_frame_locator.md R131 to R134) -/

/-- The two causes of `NEED_MORE` (R131, R134). -/
theorem locator_needMore_iff {cfg : Params} {b : List Byte} :
    locator cfg b = .needMore ↔ b.length < 5 ∨ (MarkerAt b 0 ∧ b.length < totalLen b) := by
  rcases locator_cases cfg b with ⟨h5, he⟩ | ⟨h5, ha, k, he, -⟩ | ⟨h5, ha, hT, he⟩ | ⟨h5, ha, hT, e, info, -, he⟩ |
    ⟨h5, ha, hT, -, he⟩
  · simp [he, h5]
  · simp [he, ha, h5]
  · simp [he, ha, hT]
  · simp [he, h5, hT]
  · simp [he, h5, hT]

/-- An unaligned buffer is skipped up to its least whole marker (R132, R133). -/
theorem locator_of_least_marker (cfg : Params) {b : List Byte} {i : Nat} (h5 : 5 ≤ b.length) (hi : 1 ≤ i)
    (hm : MarkerAt b i) (hleast : ∀ j, j < i → ¬ MarkerAt b j) : locator cfg b = .skip i := by
  rcases locator_unaligned (cfg := cfg) h5 (hleast 0 hi) with ⟨k, he, -, hk, hlt⟩ | ⟨-, hnone⟩
  · have hik : ¬ i < k := fun h => hlt i h hm
    have hki : ¬ k < i := fun h => hleast k h hk
    rw [he, Nat.le_antisymm (Nat.le_of_not_lt hik) (Nat.le_of_not_lt hki)]
  · exact absurd hm (hnone i)

theorem locator_of_no_marker (cfg : Params) {b : List Byte} (h5 : 5 ≤ b.length) (hnone : ∀ i, ¬ MarkerAt b i) :
    locator cfg b = .skip b.length := by
  rcases locator_unaligned (cfg := cfg) h5 (hnone 0) with ⟨k, -, -, hk, -⟩ | ⟨he, -⟩
  · exact absurd hk (hnone k)
  · exact he

/-- Settles O15: step 1 looks at the length alone, and step 2's search finds the least marker. -/
theorem locateSkipsGarbage : Obligations.LocateSkipsGarbage := fun cfg _ =>
  ⟨fun h => locator_needMore_iff.2 (.inl h), fun _ h5 hi hm hleast => locator_of_least_marker cfg h5 hi hm hleast,
    fun h5 hnone => locator_of_no_marker cfg h5 hnone⟩

/-- Settles O19: a length field announces at most 65535 bytes, so an incomplete packet is shorter than 65542. -/
theorem needMoreBoundsBuffer : Obligations.NeedMoreBoundsBuffer := by
  intro cfg b h
  have hle := totalLen_le b
  rcases locator_needMore_iff.1 h with h5 | ⟨ha, hT⟩
  · exact ⟨.inl h5, by omega⟩
  · exact ⟨.inr ⟨ha, hT.trans_eq (totalLen_eq b)⟩, by omega⟩

/-- Where a `SKIP` leads: to a marker, or to the end of the buffer (R133). -/
theorem locator_skip_target {cfg : Params} {b : List Byte} {k : Nat} (h : locator cfg b = .skip k) :
    1 ≤ k ∧ (MarkerAt b k ∨ k = b.length) := by
  obtain ⟨h5, ha⟩ := locator_skip h
  rcases locator_unaligned (cfg := cfg) h5 ha with ⟨k', he, h1, hm, -⟩ | ⟨he, -⟩ <;> cases he.symm.trans h
  · exact ⟨h1, .inl hm⟩
  · exact ⟨by omega, .inr rfl⟩

/-- Settles O20: a second `SKIP` would need an unaligned rest of at least 5 bytes. -/
theorem noSkipAfterSkip : Obligations.NoSkipAfterSkip := by
  intro cfg b k h
  obtain ⟨h1, hm | rfl⟩ := locator_skip_target h
  · have hd : MarkerAt (b.drop k) 0 := (markerAt_drop b k 0).2 hm
    have hin := hm.1
    exact ⟨h1, by omega, .inl hd, fun k' h' => (locator_skip h').2 hd⟩
  · have hd : b.drop b.length = [] := List.drop_length
    exact ⟨h1, le_rfl, .inr ⟨hd, rfl⟩, fun k' h' => by simpa [hd] using (locator_skip h').1⟩

/-! ## Steps 4 to 6: checksum, shape, packet (41_frame_locator.md R135 to R137) -/

section Complete

variable {cfg : Params} {b : List Byte} (h5 : 5 ≤ b.length) (ha : MarkerAt b 0) (hT : totalLen b ≤ b.length)
include h5 ha hT

/-- The checks on the head of the buffer are those of its kind byte, payload and checksum field (30_encoding.md R90). -/
theorem packetFault_head :
    packetFault cfg (coveredOf (b.take (totalLen b))) (ckFieldOf (b.take (totalLen b))) =
      packetFault cfg (covered (byteAt b 2) (slice b 5 (5 + payloadLen b))) (le16 b (5 + payloadLen b)) := by
  rw [coveredOf_take, ckFieldOf_take, slice_head_covered b h5 ha hT]

theorem locator_of_fault {e : ErrCode} {info : Nat × Nat}
    (hf : packetFault cfg (covered (byteAt b 2) (slice b 5 (5 + payloadLen b))) (le16 b (5 + payloadLen b)) =
      some (e, info)) : locator cfg b = .fatal e info := by
  rw [locator_aligned h5 ha, if_neg (Nat.not_lt.2 hT), packetFault_head h5 ha hT, hf]

theorem locator_of_no_fault
    (hf : packetFault cfg (covered (byteAt b 2) (slice b 5 (5 + payloadLen b))) (le16 b (5 + payloadLen b)) = none) :
    locator cfg b = .emit (b.take (totalLen b)) (totalLen b) := by
  rw [locator_aligned h5 ha, if_neg (Nat.not_lt.2 hT), packetFault_head h5 ha hT, hf]

/-- Step 4 on the bytes themselves (R135). -/
theorem locator_of_checksum_ne (hne : checksum (slice b 2 (5 + payloadLen b)) ≠ le16 b (5 + payloadLen b)) :
    locator cfg b = .fatal .checksum
      ((checksum (slice b 2 (5 + payloadLen b))).toNat, (le16 b (5 + payloadLen b)).toNat) := by
  rw [slice_head_covered b h5 ha hT] at hne ⊢
  exact locator_of_fault h5 ha hT (packetFault_of_checksum_ne cfg hne)

end Complete

/-- Settles O16: the checks of the packet at the head, whose payload has the announced length. -/
theorem locateChecksInOrder : Obligations.LocateChecksInOrder := by
  intro cfg b h5 ha n c r
  have hlen : 5 + n + 2 ≤ b.length → (slice b 5 (5 + n)).length = n := fun h => by
    rw [slice_length b (by omega), Nat.add_sub_cancel_left]
  have hsum : 5 + n + 2 ≤ b.length → c = r → checksum (covered (byteAt b 2) (slice b 5 (5 + n))) = r :=
    fun h hc => slice_head_covered b h5 ha h ▸ hc
  refine ⟨fun h => locator_needMore_iff.2 (.inr ⟨ha, h⟩), fun h hne => locator_of_checksum_ne h5 ha h hne,
    fun h hc x hx hne => ?_, fun h hc hx => locator_of_no_fault h5 ha h ?_⟩
  · have hf := packetFault_of_length_ne (hsum h hc) hx ((hlen h).trans_ne hne)
    rw [hlen h] at hf
    exact locator_of_fault h5 ha h hf
  · have hs := shapeFault_eq_none fun x hq => (hlen h).trans (hx x hq)
    exact (packetFault_eq _ _ _ _).trans ((if_pos (hsum h hc)).trans hs)

/-! ## The emitted packet (41_frame_locator.md R137, R140) -/

/-- What LOCATE emits is a valid packet: it is emitted alone as it was before a tail. -/
theorem validPacket_of_emit {cfg : Params} {b p : List Byte} {t : Nat} (h : locator cfg b = .emit p t) :
    ValidPacket cfg p ∧ p = b.take t ∧ p.length = t := by
  obtain ⟨h5, ha, hT, rfl, rfl, hf⟩ := locator_emit h
  obtain ⟨k, q, ck, hq, hp, hl, -⟩ := packet_at_head h5 ha hT
  have hlen : (b.take (totalLen b)).length = totalLen b := List.length_take_of_le hT
  refine ⟨?_, rfl, hlen⟩
  have hloc := locator_packet cfg k q ck [] hq
  rw [hp, coveredOf_packetBytes k ck hq, ckFieldOf_packetBytes k ck hq] at hf
  rw [List.append_nil, hf, ← hl, ← hp] at hloc
  rw [ValidPacket, hlen, hloc]

/-- Settles O17: a valid packet is kind and payload under their right checksum and shape. -/
theorem emittedPacketIsSound : Obligations.EmittedPacketIsSound := by
  intro cfg b p t h
  obtain ⟨hv, htake, hlen⟩ := validPacket_of_emit h
  obtain ⟨k, q, hq, rfl, hs⟩ := validPacket_parts hv
  have hN : (le16 (packetBytes k q (checksum (covered k q))) 3).toNat = q.length := by
    have := payloadLen_packetBytes k (checksum (covered k q)) [] hq
    rwa [List.append_nil] at this
  have hend : (packetBytes k q (checksum (covered k q))).length - 2 = 5 + q.length := by
    rw [packetBytes_length]; omega
  refine ⟨htake, hlen, rfl, rfl, ?_, ?_, ?_⟩
  · rw [packetBytes_length, hN]
  · rw [hend, slice_covered, le16_ckField]
  · rw [hend, slice_packetBytes, hN, byteAt_packetBytes_two]
    exact shapeFault_eq_none_iff.1 hs

section Valid

variable {cfg : Params} {v : List Byte} (hv : ValidPacket cfg v)
include hv

theorem ValidPacket.append (rest : List Byte) : locator cfg (v ++ rest) = .emit v v.length := by
  obtain ⟨k, q, hq, rfl, hs⟩ := validPacket_parts hv
  rw [locator_packet cfg k q _ rest hq, packetFault_eq, if_pos rfl, hs, packetBytes_length]

theorem ValidPacket.markerAt_zero : MarkerAt v 0 := (locator_emit hv).2.1

theorem ValidPacket.length_eq : v.length = 7 + payloadLen v := by
  obtain ⟨-, -, -, hlen, -⟩ := locator_emit hv
  rw [hlen, totalLen_eq]

theorem ValidPacket.checksum_eq : checksum (slice v 2 (5 + payloadLen v)) = le16 v (5 + payloadLen v) := by
  have hN := hv.length_eq
  obtain ⟨-, -, -, -, -, hsum, -⟩ := emittedPacketIsSound cfg v v _ hv
  rwa [show v.length - 2 = 5 + payloadLen v by omega] at hsum

end Valid

/-- Settles O22: a proper initial part is too short for its header or for the length it announces. -/
theorem partialDeliveryIsTransparent : Obligations.PartialDeliveryIsTransparent := by
  intro cfg v rest hv
  refine ⟨fun m hm => locator_needMore_iff.2 ?_, hv.append rest⟩
  have hlen : (v.take m).length = m := List.length_take_of_le hm.le
  by_cases h5 : m < 5
  · exact .inl (by omega)
  · have ha : MarkerAt (v.take m) 0 := by
      rw [← aligned_iff (by omega), aligned_take v (by omega), aligned_iff (by omega)]
      exact hv.markerAt_zero
    have hN := hv.length_eq
    exact .inr ⟨ha, by rw [totalLen_take v (by omega), totalLen_eq]; omega⟩

/-- Before bytes that begin with the marker, garbage without a marker stays so: its last byte and the marker's first
are no marker, whatever the last byte is. -/
theorem not_markerAt_append {g w : List Byte} (hg : ∀ i, ¬ MarkerAt g i) (hw : MarkerAt w 0) {j : Nat}
    (hj : j < g.length) : ¬ MarkerAt (g ++ w) j := by
  rintro ⟨-, h0, h1⟩
  by_cases hin : j + 1 < g.length
  · rw [byteAt_append_left g w hj] at h0
    rw [byteAt_append_left g w hin] at h1
    exact hg j ⟨hin, h0, h1⟩
  · have hlast : j + 1 = g.length + 0 := by omega
    rw [hlast, byteAt_append_right, hw.2.1] at h1
    exact absurd h1 (by decide)

/-- Settles O21: the packet's own marker is the least one. -/
theorem garbageThenPacket : Obligations.GarbageThenPacket := by
  intro cfg g v rest hne hg hv
  have hpos : 1 ≤ g.length := List.length_pos_iff.2 hne
  have hlen := hv.length_eq
  have hdrop : (g ++ (v ++ rest)).drop g.length = v ++ rest := List.drop_left
  have hw : MarkerAt (v ++ rest) 0 := (locator_emit (hv.append rest)).2.1
  have hm : MarkerAt (g ++ (v ++ rest)) g.length := by
    rw [← hdrop, markerAt_drop] at hw
    exact hw
  rw [List.append_assoc, hdrop]
  exact ⟨locator_of_least_marker cfg (by simp; omega) hpos hm fun j hj => not_markerAt_append hg hw hj,
    hv.append rest⟩

/-! ## One changed byte (41_frame_locator.md R141, 40_checksum.md R126 (a)) -/

theorem byteAt_set_self {b : List Byte} {j : Nat} (x : Byte) (hj : j < b.length) : byteAt (b.set j x) j = x := by
  simp [byteAt, List.getD_eq_getElem?_getD, hj]

theorem byteAt_set_ne (b : List Byte) {i j : Nat} (x : Byte) (h : j ≠ i) : byteAt (b.set j x) i = byteAt b i := by
  simp [byteAt, List.getD_eq_getElem?_getD, List.getElem?_set_ne h]

theorem slice_set (b : List Byte) {i n j : Nat} (x : Byte) (h : i ≤ j) :
    slice (b.set j x) i n = (slice b i n).set (j - i) x := by
  rw [slice, List.drop_set, if_neg (Nat.not_lt.2 h), List.take_set, slice]

theorem le16_set_ne (b : List Byte) {o j : Nat} (x : Byte) (h : j < o ∨ o + 1 < j) : le16 (b.set j x) o = le16 b o :=
  le16_congr (byteAt_set_ne b x (by omega)) (byteAt_set_ne b x (by omega))

theorem le16_eq_iff {a b : List Byte} {o : Nat} :
    le16 a o = le16 b o ↔ byteAt a o = byteAt b o ∧ byteAt a (o + 1) = byteAt b (o + 1) := by
  refine ⟨fun h => ⟨?_, ?_⟩, fun h => le16_congr h.1 h.2⟩
  · simpa [le16] using congrArg loByte h
  · simpa [le16] using congrArg hiByte h

theorem le16_set_ne_self {b : List Byte} {o j : Nat} {x : Byte} (hj : j < b.length) (h : j = o ∨ j = o + 1)
    (hx : byteAt b j ≠ x) : le16 (b.set j x) o ≠ le16 b o := by
  intro he
  have hself := byteAt_set_self x hj
  obtain ⟨h0, h1⟩ := le16_eq_iff.1 he
  rcases h with rfl | rfl
  · exact hx (h0.symm.trans hself)
  · exact hx (h1.symm.trans hself)

theorem markerAt_zero_append {b : List Byte} (rest : List Byte) (h : 2 ≤ b.length) :
    MarkerAt (b ++ rest) 0 ↔ MarkerAt b 0 := by
  simp only [MarkerAt, List.length_append, byteAt_append_left b rest (show 0 < b.length by omega),
    byteAt_append_left b rest (show 0 + 1 < b.length by omega)]
  exact and_congr_left fun _ => by omega

theorem markerAt_zero_set {b : List Byte} {j : Nat} (x : Byte) (hj : 2 ≤ j) :
    MarkerAt (b.set j x) 0 ↔ MarkerAt b 0 := by
  simp only [MarkerAt, List.length_set, byteAt_set_ne b x (show j ≠ 0 by omega),
    byteAt_set_ne b x (show j ≠ 0 + 1 by omega)]

theorem payloadLen_append {b : List Byte} (rest : List Byte) (h : 5 ≤ b.length) :
    payloadLen (b ++ rest) = payloadLen b :=
  congrArg BitVec.toNat (le16_append_left b rest (by omega))

theorem payloadLen_set (b : List Byte) {j : Nat} (x : Byte) (h : j < 3 ∨ 4 < j) :
    payloadLen (b.set j x) = payloadLen b :=
  congrArg BitVec.toNat (le16_set_ne b x h)

section Mutated

variable {cfg : Params} {v : List Byte} {j : Nat} {x : Byte} (hv : ValidPacket cfg v) (hx : byteAt v j ≠ x)
include hv hx

/-- A changed byte of the covered range changes its checksum and not the field, one of the field the field alone. -/
theorem ValidPacket.checksum_set_ne (hj : 2 ≤ j) (hlt : j < v.length) :
    checksum (slice (v.set j x) 2 (5 + payloadLen v)) ≠ le16 (v.set j x) (5 + payloadLen v) := by
  have hN := hv.length_eq
  have hcl : (slice v 2 (5 + payloadLen v)).length = 3 + payloadLen v := by
    rw [slice_length v (by omega)]; omega
  rw [slice_set v x hj]
  by_cases hcov : j < 5 + payloadLen v
  · rw [le16_set_ne v x (.inl hcov), ← hv.checksum_eq, Ne, checksum_eq_iff]
    have hb : byteAt (slice v 2 (5 + payloadLen v)) (j - 2) = byteAt v j := by
      rw [byteAt_slice v (by omega), Nat.add_sub_cancel' hj]
    exact fun h => ckFold_set_fst_ne (by omega) (hb.trans_ne hx) (congrArg Prod.fst h)
  · rw [List.set_eq_of_length_le (by omega), hv.checksum_eq]
    exact (le16_set_ne_self hlt (by omega) hx).symm

theorem ValidPacket.locator_set_fatal (rest : List Byte) (hj : j = 2 ∨ (5 ≤ j ∧ j < v.length)) :
    ∃ c r, c ≠ r ∧ locator cfg (v.set j x ++ rest) = .fatal .checksum (c, r) := by
  have hN := hv.length_eq
  have hl : (v.set j x).length = v.length := List.length_set
  have ha : MarkerAt (v.set j x ++ rest) 0 := by
    rw [markerAt_zero_append rest (by omega), markerAt_zero_set x (by omega)]
    exact hv.markerAt_zero
  have hp : payloadLen (v.set j x ++ rest) = payloadLen v := by
    rw [payloadLen_append rest (by omega), payloadLen_set v x (by omega)]
  have hne := hv.checksum_set_ne hx (show 2 ≤ j by omega) (by omega)
  have hs : slice (v.set j x ++ rest) 2 (5 + payloadLen v) = slice (v.set j x) 2 (5 + payloadLen v) :=
    slice_append_left _ rest (by omega)
  have hr : le16 (v.set j x ++ rest) (5 + payloadLen v) = le16 (v.set j x) (5 + payloadLen v) :=
    le16_append_left _ rest (by omega)
  have hf := locator_of_checksum_ne (cfg := cfg) (b := v.set j x ++ rest) (by simp; omega) ha
    (by rw [totalLen_eq, hp, List.length_append]; omega) (by rw [hp, hs, hr]; exact hne)
  rw [hp, hs, hr] at hf
  exact ⟨_, _, fun h => hne (BitVec.eq_of_toNat_eq h), hf⟩

theorem ValidPacket.not_markerAt_set (rest : List Byte) (hj : j < 2) : ¬ MarkerAt (v.set j x ++ rest) 0 := by
  have hN := hv.length_eq
  obtain ⟨-, h0, h1⟩ := hv.markerAt_zero
  rw [markerAt_zero_append rest (by rw [List.length_set]; omega)]
  rintro ⟨-, h0', h1'⟩
  have hself := byteAt_set_self x (show j < v.length by omega)
  obtain rfl | rfl : j = 0 ∨ j = 0 + 1 := by omega
  · exact hx (h0.trans (h0'.symm.trans hself))
  · exact hx (h1.trans (h1'.symm.trans hself))

theorem ValidPacket.locator_set_skip (rest : List Byte) (hj : j < 2) :
    ∃ k, locator cfg (v.set j x ++ rest) = .skip k := by
  have hN := hv.length_eq
  have h5 : 5 ≤ (v.set j x ++ rest).length := by simp; omega
  rcases locator_unaligned (cfg := cfg) h5 (hv.not_markerAt_set hx rest hj) with ⟨k, he, -⟩ | ⟨he, -⟩
  · exact ⟨k, he⟩
  · exact ⟨_, he⟩

omit hx in
theorem ValidPacket.locator_set_needMore (rest : List Byte) (hj : 2 ≤ j)
    (hshort : (v ++ rest).length < 7 + payloadLen (v.set j x)) :
    locator cfg (v.set j x ++ rest) = .needMore := by
  have hN := hv.length_eq
  have hl : (v.set j x).length = v.length := List.length_set
  refine locator_needMore_iff.2 (.inr ⟨?_, ?_⟩)
  · rw [markerAt_zero_append rest (by omega), markerAt_zero_set x hj]
    exact hv.markerAt_zero
  · rwa [totalLen_eq, payloadLen_append rest (by omega), List.length_append, hl, ← List.length_append]

end Mutated

/-- The packet of 90 C7: its payload begins with the checksum that the same packet without payload would carry. -/
def shortenable : List Byte := validPacket 0x10 [0x10, 0x30]

/-- With length 0 for 2 its first seven bytes are a valid packet. -/
theorem shortenable_passes_shortened :
    ValidPacket Params.default shortenable ∧ shortenable.length = 9 ∧ byteAt shortenable 3 = 0x02 ∧
      locator Params.default (shortenable.set 3 0x00) = .emit (validPacket 0x10 []) 7 :=
  ⟨validPacket_valid (by decide) (by decide), by decide, by decide, by decide⟩

/-- Settles O23: the three clauses by the byte's position, and the packet of 90 C7. -/
theorem singleByteMutations : Obligations.SingleByteMutations :=
  ⟨fun _ _ rest _ _ hv hx =>
    ⟨hv.locator_set_fatal hx rest, fun hj => ⟨hv.not_markerAt_set hx rest hj, hv.locator_set_skip hx rest hj⟩,
      fun hj hshort => hv.locator_set_needMore rest (by omega) hshort⟩,
    shortenable, shortenable_passes_shortened⟩

/-! ## Packets that fail a check (60_exceptions.md R221, R222, R226) -/

theorem trapped_trap (e : ErrCode) (info : Nat × Nat) (s : State) : Trapped e info s (trap e info s) := rfl

/-- A packet with a fault of steps 4 and 5 enters the trap unconsumed. -/
theorem exec_packet_fault {i : Instr} {s : State} {k : Byte} {q : List Byte} {ck : Word16} {e : ErrCode}
    {info : Nat × Nat} (hi : packetParts s.cfg i = some (k, q, ck)) (hp : s.phase = .run)
    (hf : packetFault s.cfg (covered k q) ck = some (e, info)) :
    ∃ t, exec i s = .next t ∧ Trapped e info (summed k q s) t :=
  ⟨_, (exec_packet hi).trans (runPacket_fault hp hf), trapped_trap e info _⟩

/-- Settles O31: the checksum is the first check. -/
theorem wrongChecksumTraps : Obligations.WrongChecksumTraps := fun _ s _ _ _ hi hp hne =>
  exec_packet_fault hi hp (packetFault_of_checksum_ne s.cfg hne)

/-- Settles O32: the shape is the second check. -/
theorem wrongShapeTraps : Obligations.WrongShapeTraps := fun _ _ _ _ _ _ hi hp hc hx hne =>
  exec_packet_fault hi hp (packetFault_of_length_ne hc hx hne)

/-! ## No step stops (44_scanner.md R195, 70_reset_and_hazards.md R263) -/

/-- Every command has a meaning at Ready. -/
theorem exec_command_at_ready {i : Instr} {s : State} (hc : isCommand i = true) (hp : s.phase = .ready) :
    ∃ t, exec i s = .next t := by
  rcases isCommand_cases hc with hr | rfl | ⟨d, rfl⟩
  · exact ⟨_, (exec_plainRead hr s).trans (whenReady_ready hp)⟩
  · exact ⟨_, whenReady_ready hp⟩
  · exact ⟨_, whenReady_ready hp⟩

/-- Every packet has a meaning at the Run step. -/
theorem runPacket_at_run (k : Byte) (q : List Byte) (ck : Word16) (dec : Except ErrDetail Value) {s : State}
    (hp : s.phase = .run) : ∃ t, runPacket k q ck dec s = .next t := by
  cases hf : packetFault s.cfg (covered k q) ck with
  | some d => exact ⟨_, runPacket_fault hp hf⟩
  | none =>
    cases dec with
    | error d => exact ⟨_, runPacket_error hp hf⟩
    | ok v => exact ⟨_, runPacket_ok hp hf⟩

theorem exec_packetInstr_at_run (p : List Byte) {s : State} (hp : s.phase = .run) :
    ∃ t, exec (packetInstr s.cfg p) s = .next t := by
  rw [packetInstr, exec_kindInstr]
  exact runPacket_at_run _ _ _ _ hp

/-- Every answer within the bound has a meaning in WaitSrc. -/
theorem exec_srcInstr_at_waitSrc {a : SrcEvent} {s : State} (hp : s.phase = .waitSrc)
    (hfit : ∀ c, a = .data c → s.cfg.chunkFits c = true) : ∃ t, exec (srcInstr a) s = .next t := by
  cases a with
  | data c => exact ⟨_, (if_pos (hfit c rfl)).trans (whenAsked_asked hp)⟩
  | eos | ioerr => exact ⟨_, whenAsked_asked hp⟩

theorem fetchRun_next {s : State} (hp : s.phase = .run) : ∃ t, runFetched (fetchRun s) = .next t := by
  unfold fetchRun
  cases locator s.cfg s.buf with
  | needMore | skip | fatal => exact ⟨_, rfl⟩
  | emit p t =>
    obtain ⟨u, hu⟩ := exec_packetInstr_at_run p ((locateBuf_phase s).trans hp)
    rw [locateBuf_cfg] at hu
    exact ⟨u, hu⟩

theorem fetchSource_next {s : State} (hs : SourceDuty s) (hp : s.phase = .waitSrc) :
    ∃ t, runFetched (fetchSource s) = .next t := by
  unfold fetchSource
  cases hq : s.srcQ with
  | nil => exact ⟨_, rfl⟩
  | cons a rest =>
    refine exec_srcInstr_at_waitSrc hp fun c hc => hs c ?_
    rw [hq, hc]
    exact List.mem_cons_self

theorem fetchInner_next {s : State} (hs : SourceDuty s) : ∃ t, runFetched (fetchInner s) = .next t := by
  unfold fetchInner
  cases hp : s.phase with
  | ready => exact ⟨_, rfl⟩
  | run => exact fetchRun_next hp
  | waitSrc => exact fetchSource_next hs hp

theorem fetchCommand_next {w : HostWord} {s : State} (hp : s.phase = .ready)
    (hw : ∀ c, w = .code c → ∃ i, decodeCode c = .ok i) : ∃ t, runFetched (fetchCommand w s) = .next t := by
  obtain ⟨i, hi⟩ : ∃ i, decodeHost w = .ok i := by
    cases w with
    | code c => exact hw c rfl
    | advanceBy d => exact ⟨_, rfl⟩
  rw [fetchCommand, hi]
  exact exec_command_at_ready (isCommand_of_decodeHost hi) hp

theorem step_next_of_duties {s : State} (hh : HostDuty s) (hs : SourceDuty s) : ∃ t, step s = .next t := by
  rw [step_eq, fetch]
  cases hq : s.hostQ with
  | nil => exact fetchInner_next hs
  | cons e rest =>
    cases e with
    | reset src => exact ⟨_, rfl⟩
    | pause => exact fetchInner_next hs
    | command w =>
      dsimp only
      split_ifs with hp
      · refine fetchCommand_next hp fun c hc => hh.1 c ?_
        rw [hq, hc]
        exact List.mem_cons_self
      · exact fetchInner_next hs

/-- The host's duty is one on what is left of its script. -/
theorem HostDuty.of_subset {s t : State} (h : HostDuty s) (hcfg : t.cfg = s.cfg) (hq : t.hostQ ⊆ s.hostQ) :
    HostDuty t := by
  refine ⟨fun c hc => h.1 c (hq hc), fun src hsrc c hc => ?_⟩
  rw [hcfg]
  exact h.2 src (hq hsrc) c hc

theorem SourceDuty.of_subset {s t : State} (h : SourceDuty s) (hcfg : t.cfg = s.cfg) (hq : t.srcQ ⊆ s.srcQ) :
    SourceDuty t := by
  intro c hc
  rw [hcfg]
  exact h c (hq hc)

/-- A move leaves the host's script alone and at most takes an answer from the source's. -/
theorem move_scripts {u t : State} (h : Move u t) : t.hostQ = u.hostQ ∧ t.srcQ ⊆ u.srcQ := by
  cases h with
  | reply | start | record | wait => exact ⟨rfl, List.Subset.refl _⟩
  | data c rest _ hq => exact ⟨rfl, by rw [hq]; exact List.subset_cons_self _ _⟩
  | eos rest _ hq | ioerr rest _ _ hq => exact ⟨rfl, by rw [hq]; exact List.subset_cons_self _ _⟩
  | ask | skip | fatal | reject | accept => exact ⟨locateBuf_hostQ u, by simp⟩

theorem duties_of_move {s t : State} {q : List HostEvent} (hh : HostDuty s) (hs : SourceDuty s) (hq : q ⊆ s.hostQ)
    (h : Move { s with hostQ := q } t) : HostDuty t ∧ SourceDuty t := by
  obtain ⟨hhost, hsrc⟩ := move_scripts h
  have hcfg : t.cfg = s.cfg := (move_cfg h :)
  exact ⟨hh.of_subset hcfg (hhost ▸ hq), hs.of_subset hcfg hsrc⟩

/-- A reset's source keeps its bound by the host's duty; every other step is a move with less of the scripts left. -/
theorem step_keeps_duties {s t : State} (hh : HostDuty s) (hs : SourceDuty s) (h : step s = .next t) :
    HostDuty t ∧ SourceDuty t := by
  rcases step_cases h with ⟨src, rest, hq, rfl⟩ | ⟨w, rest, i, hq, -, hd, he⟩ | ⟨q, rfl | hq, hm⟩
  · refine ⟨hh.of_subset rfl ?_, hh.2 src (hq ▸ List.mem_cons_self)⟩
    rw [hq]
    exact List.subset_cons_self _ _
  · exact duties_of_move hh hs (hq ▸ List.subset_cons_self _ _) (command_move (isCommand_of_decodeHost hd) he)
  · exact duties_of_move hh hs (List.Subset.refl _) (inner_move hm)
  · exact duties_of_move hh hs (hq ▸ List.subset_cons_self _ _) (inner_move hm)

theorem run_succ_of_step {s u : State} (n : Nat) (h : step s = .next u) :
    Sys2Proof.core.run (n + 1) s = Sys2Proof.core.run n u := by
  have hstep : Sys2Proof.core.step s = .next u := h
  simp only [Host.Core.run, hstep]

theorem run_next_of_duties {s : State} (n : Nat) (hh : HostDuty s) (hs : SourceDuty s) :
    ∃ t, Sys2Proof.core.run n s = .next t := by
  induction n generalizing s with
  | zero => exact ⟨s, rfl⟩
  | succ n ih =>
    obtain ⟨u, hu⟩ := step_next_of_duties hh hs
    obtain ⟨hh', hs'⟩ := step_keeps_duties hh hs hu
    obtain ⟨t, ht⟩ := ih hh' hs'
    exact ⟨t, (run_succ_of_step n hu).trans ht⟩

/-- Settles O54: a step under the duties is no stop and keeps them, and so for any number of steps. -/
theorem noStepStops : Obligations.NoStepStops := by
  refine ⟨fun s hh hs => ?_, fun _ n => run_next_of_duties n⟩
  obtain ⟨t, ht⟩ := step_next_of_duties hh hs
  exact ⟨t, ht, step_keeps_duties hh hs ht⟩

end Sys2Proof

/-! PROOFS. The Message Decoders: the payload length each kind requires, words that decode, and what a packet of the
right checksum and shape leaves, held or rejected by its decoder (42_message_decoders.md R150 to R159). -/

namespace Sys2Proof

open Sys2Proof.Machine

/-! ## The expected payload length (42_message_decoders.md R150) -/

theorem expectedLen_unknown {cfg : Params} {k : Byte} (q : List Byte) (hk : k ∉ cfg.kinds) :
    expectedLen cfg k q = none := by
  rw [expectedLen, tag_of_unknown hk]

/-- Settles O7: distinct codes have distinct tags, and the tag selects the length. -/
theorem expectedPayloadLengths : Obligations.ExpectedPayloadLengths := by
  intro cfg q h
  obtain ⟨hv, hp, hs, hd, hw, hl⟩ := tag_of_kinds h
  refine ⟨?version, ?position, ?status, ?dop, ?velocity, fun hshort => ?short, fun hlong => ?long,
    fun _ => expectedLen_unknown q⟩
  case version => rw [expectedLen, hv]
  case position => rw [expectedLen, hp]
  case status => rw [expectedLen, hs]
  case dop => rw [expectedLen, hd]
  case velocity => rw [expectedLen, hw]
  case short => rw [expectedLen_satelliteList q hl, if_pos hshort]
  case long => rw [expectedLen_satelliteList q hl, if_neg (Nat.not_lt.2 hlong)]

theorem shapeFault_of_expected_length {cfg : Params} {k : Byte} {q : List Byte}
    (h : expectedLen cfg k q = some q.length) : shapeFault cfg k q = none :=
  shapeFault_eq_none fun _ hx => Option.some.inj (h.symm.trans hx)

theorem shapeFault_unknown {cfg : Params} {k : Byte} (q : List Byte) (hk : k ∉ cfg.kinds) :
    shapeFault cfg k q = none := by
  rw [shapeFault, expectedLen_unknown q hk]

/-! ## Words written out from the spec (42_message_decoders.md R153, R159, 30_encoding.md R105) -/

/-- Settles O4: four of the words are what `encode` makes of their instruction, so O1 reads them back; 0x4 is the code
of no command. -/
theorem sampleWordsDecode : Obligations.SampleWordsDecode :=
  ⟨decodeOfEncode _ (.version _ _) _ (by decide) (by decide) rfl,
    decodeOfEncode _ (.unknown _ _ _) _ (by decide) (by decide) rfl,
    decodeOfEncode _ (.advance none) _ (by decide) rfl rfl,
    decodeOfEncode _ .getUnknown _ (by decide) rfl rfl,
    rfl⟩

/-! ## The packet held (44_scanner.md R201) -/

/-- Holding a packet of any kind but SatelliteList leaves the cursor and the count (10_state.md R32, R33). -/
theorem hold_packetBytes {k : Byte} {t : Tag} {s : State} (q : List Byte) (ck : Word16) (v : Value)
    (ht : tag s.cfg k = t) (hne : t ≠ .satelliteList) :
    hold (packetBytes k q ck) v s = { s with
      pkt := packetBytes k q ck, pktLen := BitVec.ofNat 17 (7 + q.length), kind := k, val := v
      st := .holding, phase := .ready, deadline := none, resp := some (.ok t k) } := by
  subst ht
  rw [hold, packetBytes_length, byteAt_packetBytes_two, if_neg hne, if_neg hne]
  rfl

/-- The byte of a packet that `SVCNT` is read from is the fifth of its payload (R158). -/
theorem byteAt_packetBytes_nine (k : Byte) {q : List Byte} (ck : Word16) (h : 5 ≤ q.length) :
    byteAt (packetBytes k q ck) 9 = byteAt q 4 :=
  byteAt_append_left q (bytesU16 ck) h

/-- Holding a SatelliteList also takes the count and clears the cursor (R158). -/
theorem hold_packetBytes_satelliteList {k : Byte} {q : List Byte} {s : State} (ck : Word16) (v : Value)
    (ht : tag s.cfg k = .satelliteList) (hq : 5 ≤ q.length) :
    hold (packetBytes k q ck) v s = { s with
      pkt := packetBytes k q ck, pktLen := BitVec.ofNat 17 (7 + q.length), kind := k, val := v
      svCnt := byteAt q 4, svCur := 0
      st := .holding, phase := .ready, deadline := none, resp := some (.ok .satelliteList k) } := by
  rw [hold, packetBytes_length, byteAt_packetBytes_two, byteAt_packetBytes_nine k ck hq, ht, if_pos rfl, if_pos rfl]
  rfl

/-! ## Packets that pass the checksum and the shape (44_scanner.md R201) -/

section Passed

variable {i : Instr} {s : State} {k : Byte} {q : List Byte}

theorem packetFault_eq_none {cfg : Params} (h : shapeFault cfg k q = none) :
    packetFault cfg (covered k q) (checksum (covered k q)) = none := by
  rw [packetFault_eq, if_pos rfl, h]

/-- A packet its decoder accepts is consumed and held. -/
theorem exec_packet_accepted {v : Value} (hi : packetParts s.cfg i = some (k, q, checksum (covered k q)))
    (hp : s.phase = .run) (hs : shapeFault s.cfg k q = none) (hd : instrDecode i = .ok v) :
    exec i s = .next (hold (packetBytes k q (checksum (covered k q))) v (eaten q (summed k q s))) := by
  rw [exec_packet hi, hd]
  exact runPacket_ok hp (packetFault_eq_none hs)

/-- A packet its decoder rejects is consumed and enters the trap (60_exceptions.md R226). -/
theorem exec_packet_rejected {e : ErrCode} {info : Nat × Nat}
    (hi : packetParts s.cfg i = some (k, q, checksum (covered k q)))
    (hp : s.phase = .run) (hs : shapeFault s.cfg k q = none) (hd : instrDecode i = .error (e, info)) :
    ∃ t, exec i s = .next t ∧ Trapped e info (eaten q (summed k q s)) t := by
  rw [exec_packet hi, hd]
  exact ⟨_, runPacket_error hp (packetFault_eq_none hs), trapped_trap e info _⟩

/-- The whole state an accepted packet of any kind but SatelliteList leaves. -/
theorem exec_packet_held {t : Tag} {v : Value} (hi : packetParts s.cfg i = some (k, q, checksum (covered k q)))
    (hp : s.phase = .run) (hs : shapeFault s.cfg k q = none) (hd : instrDecode i = .ok v)
    (ht : tag s.cfg k = t) (hne : t ≠ .satelliteList) :
    exec i s = .next { eaten q (summed k q s) with
      pkt := packetBytes k q (checksum (covered k q)), pktLen := BitVec.ofNat 17 (7 + q.length), kind := k, val := v
      st := .holding, phase := .ready, deadline := none, resp := some (.ok t k) } := by
  rw [exec_packet_accepted hi hp hs hd]
  exact congrArg _ (hold_packetBytes q _ v ht hne)

end Passed

/-! ## Version (42_message_decoders.md R153, 60_exceptions.md R223) -/

theorem decodeVersion_supported {q : List Byte} (h : byteAt q 4 = 0 ∧ byteAt q 5 = 1 ∧ byteAt q 6 = 0) :
    decodeVersion q = .ok (.version { timeGPS := le32 q 0, high := 0, medium := 1, low := 0 }) := by
  obtain ⟨hhigh, hmedium, hlow⟩ := h
  rw [decodeVersion, hhigh, hmedium, hlow]
  exact if_pos ⟨rfl, rfl, rfl⟩

theorem decodeVersion_unsupported {q : List Byte} (h : ¬ (byteAt q 4 = 0 ∧ byteAt q 5 = 1 ∧ byteAt q 6 = 0)) :
    decodeVersion q = .error (.version,
      ((byteAt q 4).toNat * 65536 + (byteAt q 5).toNat * 256 + (byteAt q 6).toNat, 0)) :=
  if_neg h

/-- Settles O24: seven bytes are Version's shape, and the triple decides between holding and the trap. -/
theorem versionRuns : Obligations.VersionRuns := by
  intro q s hw hp hq
  have hx : expectedLen s.cfg s.cfg.kindVersion q = some q.length := hq ▸ (expectedPayloadLengths s.cfg q hw).1
  have hs := shapeFault_of_expected_length hx
  refine ⟨fun hv => ?_, fun hv => exec_packet_rejected rfl hp hs (decodeVersion_unsupported hv)⟩
  have held := exec_packet_held (i := .version q _) rfl hp hs (decodeVersion_supported hv) (tag_of_kinds hw).1 nofun
  rw [hq] at held
  exact held

/-! ## SatelliteList (42_message_decoders.md R158, 43_satellite_iterator.md R183) -/

/-- Settles O29: the count in the payload gives the shape, and holding the packet takes it as `SVCNT`. -/
theorem satelliteListRuns : Obligations.SatelliteListRuns := by
  intro q s hw hp hq
  obtain ⟨-, -, -, -, -, ht⟩ := tag_of_kinds hw
  have h5 : 5 ≤ q.length := by omega
  have hx : expectedLen s.cfg s.cfg.kindSatlist q = some q.length := by
    rw [expectedLen_satelliteList q ht, if_neg (Nat.not_lt.2 h5), ← hq]
  exact (exec_packet_accepted rfl hp (shapeFault_of_expected_length hx) rfl).trans
    (congrArg _ (hold_packetBytes_satelliteList _ _ ht h5))

/-! ## Unknown (42_message_decoders.md R159) -/

/-- Settles O30: a byte that is no kind code has no shape, and its decoder takes every payload. -/
theorem unknownRuns : Obligations.UnknownRuns := fun _ q _ hk hp _ =>
  exec_packet_held rfl hp (shapeFault_unknown q hk) rfl (tag_of_unknown hk) nofun

end Sys2Proof

/-! PROOFS. The satellite iterator: what one NEXT_SATELLITE does, how a sub-record reads, and a held list iterated to
its end (43_satellite_iterator.md R181 to R185). -/

namespace Sys2Proof

open Sys2Proof.Machine

/-! ## Reading a sub-record (43_satellite_iterator.md R182, R184, 30_encoding.md R98, R99) -/

theorem scaledValue_signedReading {w : Nat} (v : BitVec w) (den : Nat) (u : PhysUnit) :
    scaledValue (signedReading v den u) = (v.toInt : Rat) / den :=
  scaledValue_of_num_one _ den u

theorem scaledValue_unsignedReading {w : Nat} (v : BitVec w) (den : Nat) (u : PhysUnit) :
    scaledValue (unsignedReading v den u) = (v.toNat : Rat) / den := by
  rw [unsignedReading, scaledValue_of_num_one, Int.cast_natCast]

/-- A factor of 1 leaves the raw value. -/
theorem scaledValue_signedReading_one {w : Nat} (v : BitVec w) (u : PhysUnit) :
    scaledValue (signedReading v 1 u) = (v.toInt : Rat) := by
  rw [scaledValue_signedReading, Nat.cast_one, div_one]

/-- The names of R99 are a table indexed by the `Type` byte. -/
theorem satName_eq_getElem? (b : Byte) :
    satName b = [SatName.gps, .glonass, .galileo, .qzss, .beiDou, .leo, .sbas][b.toNat]? := by
  unfold satName
  generalize b.toNat = n
  match n with
  | 0 | 1 | 2 | 3 | 4 | 5 | 6 => rfl
  | n + 7 => rfl

/-! ## One NEXT_SATELLITE (43_satellite_iterator.md R181) -/

/-- NEXT_SATELLITE has a record to give: a SatelliteList is held and the cursor stands below its count. -/
def RecordLeft (s : State) : Prop :=
  s.st = .holding ∧ tag s.cfg s.kind = .satelliteList ∧ s.svCur.toNat < s.svCnt.toNat

theorem recordLeft_iff (s : State) : RecordLeft s ↔ (listHeld s && moreRecords s) = true := by
  simp [RecordLeft, listHeld, moreRecords, and_assoc]

theorem not_recordLeft_of_cursor_eq {s : State} (h : s.svCur = s.svCnt) : ¬ RecordLeft s := by
  rintro ⟨-, -, hlt⟩
  rw [h] at hlt
  exact lt_irrefl _ hlt

theorem exec_nextSatellite_record {s : State} (hp : s.phase = .ready) (h : RecordLeft s) :
    exec .nextSatellite s = .next
      (answer (.some (subRec (payloadOf s.pkt) s.svCur.toNat)) { s with svCur := s.svCur + 1 }) :=
  (whenReady_ready hp).trans (congrArg _ (if_pos ((recordLeft_iff s).1 h)))

theorem exec_nextSatellite_end {s : State} (hp : s.phase = .ready) (h : ¬ RecordLeft s) :
    exec .nextSatellite s = .next (answer .endOfSequence s) :=
  (whenReady_ready hp).trans (congrArg _ (if_neg (mt (recordLeft_iff s).2 h)))

/-- The cursor does not wrap: it moves only below the count. -/
theorem toNat_succ_of_lt {cur cnt : Byte} (h : cur.toNat < cnt.toNat) : (cur + 1).toNat = cur.toNat + 1 := by
  bv_omega

/-- Settles O38: the record is read at the cursor, each reading is its raw field over its factor, and the cursor stands
below the count, so moving it does not wrap. -/
theorem nextSatelliteAnswers : Obligations.NextSatelliteAnswers := by
  intro s hp q o
  refine ⟨fun h => ?_, exec_nextSatellite_end hp⟩
  have ⟨_, _, hlt⟩ := h
  exact ⟨_, subRec q s.svCur.toNat, exec_nextSatellite_record hp h, rfl, toNat_succ_of_lt hlt, rfl,
    scaledValue_signedReading _ 100 .cycles, scaledValue_signedReading_one _ .metres,
    scaledValue_signedReading _ 1000 .hertz, scaledValue_unsignedReading _ 4 .decibelHertz,
    scaledValue_unsignedReading _ 10 .degrees, scaledValue_unsignedReading _ 10 .degrees, rfl,
    satName_eq_getElem? _⟩

/-! ## Iteration (43_satellite_iterator.md R185) -/

/-- The first response goes before those of the later calls. -/
theorem askTimes_succ_of_next {i : Instr} {n : Nat} {s u t : State} {rs : List (Option Response)}
    (h : exec i s = .next u) (hrest : askTimes i n u = some (rs, t)) :
    askTimes i (n + 1) s = some (u.resp :: rs, t) := by
  simp only [askTimes, h, hrest, Option.map_some]

/-- With no record left, every call answers `END` and only the response is written. -/
theorem askTimes_nextSatellite_end (m : Nat) {s : State} (hp : s.phase = .ready) (h : ¬ RecordLeft s) :
    ∃ t, askTimes .nextSatellite m s = some (List.replicate m (some .endOfSequence), t) ∧
      t = { s with resp := t.resp } := by
  induction m generalizing s with
  | zero => exact ⟨s, rfl, rfl⟩
  | succ m ih =>
    obtain ⟨t, hask, ht⟩ := ih (s := answer .endOfSequence s) hp h
    exact ⟨t, askTimes_succ_of_next (exec_nextSatellite_end hp h) hask, ht⟩

/-- From any cursor with `n` records to go: those records in index order, then `END`. -/
theorem askTimes_nextSatellite (n m : Nat) {s : State} (hp : s.phase = .ready) (hst : s.st = .holding)
    (htag : tag s.cfg s.kind = .satelliteList) (hn : s.svCur.toNat + n = s.svCnt.toNat) :
    ∃ t, askTimes .nextSatellite (n + m) s =
      some ((List.range' s.svCur.toNat n).map (fun i => some (Response.some (subRec (payloadOf s.pkt) i))) ++
        List.replicate m (some Response.endOfSequence), t) ∧
      t = { s with svCur := s.svCnt, resp := t.resp } := by
  induction n generalizing s with
  | zero =>
    have hcur : s.svCur = s.svCnt := BitVec.eq_of_toNat_eq hn
    obtain ⟨t, hask, ht⟩ := askTimes_nextSatellite_end m hp (not_recordLeft_of_cursor_eq hcur)
    refine ⟨t, ?_, hcur ▸ ht⟩
    rw [Nat.zero_add, hask]
    rfl
  | succ n ih =>
    have hlt : s.svCur.toNat < s.svCnt.toNat := by omega
    have hnext := toNat_succ_of_lt hlt
    obtain ⟨t, hask, ht⟩ :=
      ih (s := answer (.some (subRec (payloadOf s.pkt) s.svCur.toNat)) { s with svCur := s.svCur + 1 }) hp hst htag
        (show (s.svCur + 1).toNat + n = s.svCnt.toNat by omega)
    have hall := askTimes_succ_of_next (exec_nextSatellite_record hp ⟨hst, htag, hlt⟩) hask
    refine ⟨t, ?_, ht⟩
    rw [Nat.add_right_comm, hall, List.range'_succ, ← hnext]
    rfl

/-- Settles O40: from cursor 0 there are `SVCNT` records to go. -/
theorem iterationYieldsAllRecords : Obligations.IterationYieldsAllRecords := by
  intro s m hp hst htag hcur
  have hzero : s.svCur.toNat = 0 := congrArg BitVec.toNat hcur
  obtain ⟨t, hask, ht⟩ := askTimes_nextSatellite s.svCnt.toNat m hp hst htag (by omega)
  rw [hzero, ← List.range_eq_range'] at hask
  exact ⟨t, hask, (congrArg State.svCur ht :), (congrArg State.pkt ht :), (congrArg State.val ht :)⟩

end Sys2Proof

/-! PROOFS. The Scanner's packets and ports: the packets of four kinds held with their readings, the frame of all seven,
the host commands at Ready and the source's answers (42_message_decoders.md R154 to R157, 44_scanner.md R190 to R206). -/

namespace Sys2Proof

open Sys2Proof.Machine

/-! ## Position, Status, DilutionOfPrecision, Velocity (42_message_decoders.md R154 to R157) -/

/-- A factor of 1 leaves the raw value. -/
theorem scaledValue_unsignedReading_one {w : Nat} (v : BitVec w) (u : PhysUnit) :
    scaledValue (unsignedReading v 1 u) = (v.toNat : Rat) := by
  rw [scaledValue_unsignedReading, Nat.cast_one, div_one]

/-- The names of R99 are a table indexed by the `FixType` byte. -/
theorem fixName_eq_getElem? (b : Byte) : fixName b = [FixName.noFix, .single, .float, .rtk][b.toNat]? := by
  unfold fixName
  generalize b.toNat = n
  match n with
  | 0 | 1 | 2 | 3 => rfl
  | n + 4 => rfl

/-- A packet of its kind's fixed length that its decoder accepts is held. -/
theorem exec_packet_held_of_length {i : Instr} {s : State} {k : Byte} {q : List Byte} {n : Nat} {t : Tag} {v : Value}
    (hi : packetParts s.cfg i = some (k, q, checksum (covered k q))) (hp : s.phase = .run) (hq : q.length = n)
    (hx : expectedLen s.cfg k q = some n) (hd : instrDecode i = .ok v) (ht : tag s.cfg k = t)
    (hne : t ≠ .satelliteList) :
    exec i s = .next { eaten q (summed k q s) with
      pkt := packetBytes k q (checksum (covered k q)), pktLen := BitVec.ofNat 17 (7 + n), kind := k, val := v
      st := .holding, phase := .ready, deadline := none, resp := some (.ok t k) } := by
  subst hq
  exact exec_packet_held hi hp (shapeFault_of_expected_length hx) hd ht hne

/-- Settles O25: 44 bytes are Position's shape, its decoder takes every payload, and no reading scales its field. -/
theorem positionRuns : Obligations.PositionRuns := by
  intro q s hw hp hq
  obtain ⟨-, hx, -⟩ := expectedPayloadLengths s.cfg q hw
  obtain ⟨-, ht, -⟩ := tag_of_kinds hw
  exact ⟨_, exec_packet_held_of_length rfl hp hq hx rfl ht nofun, rfl,
    scaledValue_unsignedReading_one _ .milliseconds, scaledValue_unsignedReading_one _ .millimetres,
    scaledValue_unsignedReading_one _ .millimetres, rfl, rfl, rfl⟩

theorem decodeStatus_valid {q : List Byte} (h : byteAt q 7 = 0 ∨ byteAt q 7 = 1) :
    decodeStatus q = .ok (.status
      { timeGPS := le32 q 0, weekGPS := le16 q 4, fixType := byteAt q 6, hasFix := byteAt q 7, numSVs := byteAt q 8 }) :=
  if_pos h

theorem decodeStatus_invalid {q : List Byte} (h : ¬ (byteAt q 7 = 0 ∨ byteAt q 7 = 1)) :
    decodeStatus q = .error (.field, (7, (byteAt q 7).toNat)) :=
  if_neg h

/-- Settles O26: nine bytes are Status's shape, and `HasFix` decides between holding and the trap. -/
theorem statusRuns : Obligations.StatusRuns := by
  intro q s hw hp hq
  obtain ⟨-, -, hx, -⟩ := expectedPayloadLengths s.cfg q hw
  obtain ⟨-, -, ht, -⟩ := tag_of_kinds hw
  refine ⟨fun hfix => ⟨_, exec_packet_held_of_length rfl hp hq hx (decodeStatus_valid hfix) ht nofun, rfl, ?_, rfl⟩,
    fun hfix => exec_packet_rejected rfl hp (shapeFault_of_expected_length (hq ▸ hx)) (decodeStatus_invalid hfix),
    fixName_eq_getElem? _⟩
  simp only [List.map, readTimeGPS, readWeekGPS, readNumSVs, scaledValue_unsignedReading_one]

/-- Settles O27: twelve bytes are the shape, and each reading is its raw field over 100. -/
theorem dilutionOfPrecisionRuns : Obligations.DilutionOfPrecisionRuns := by
  intro q s hw hp hq
  obtain ⟨-, -, -, hx, -⟩ := expectedPayloadLengths s.cfg q hw
  obtain ⟨-, -, -, ht, -⟩ := tag_of_kinds hw
  exact ⟨_, exec_packet_held_of_length rfl hp hq hx rfl ht nofun, rfl,
    scaledValue_unsignedReading _ 100 .dimensionless, scaledValue_unsignedReading _ 100 .dimensionless,
    scaledValue_unsignedReading _ 100 .dimensionless, scaledValue_unsignedReading _ 100 .dimensionless, rfl⟩

/-- Settles O28: 28 bytes are the shape; components and heading are read signed, the speeds unsigned. -/
theorem velocityRuns : Obligations.VelocityRuns := by
  intro q s hw hp hq
  obtain ⟨-, -, -, -, hx, -⟩ := expectedPayloadLengths s.cfg q hw
  obtain ⟨-, -, -, -, ht, -⟩ := tag_of_kinds hw
  exact ⟨_, exec_packet_held_of_length rfl hp hq hx rfl ht nofun, rfl,
    scaledValue_signedReading _ 100 .metresPerSecond, scaledValue_signedReading _ 100 .metresPerSecond,
    scaledValue_signedReading _ 100 .metresPerSecond, scaledValue_unsignedReading _ 100 .metresPerSecond,
    scaledValue_signedReading _ 100000 .degrees, scaledValue_unsignedReading _ 100 .metresPerSecond, rfl⟩

/-! ## The frame of the seven packets (44_scanner.md R201, R202) -/

/-- Settles O33: the three ends of a packet, each read off the state it leaves. -/
theorem packetFrame : Obligations.PacketFrame := by
  intro i s t k q ck hi h
  rw [exec_packet hi] at h
  obtain ⟨-, ⟨e, info, -, rfl⟩ | ⟨-, e, info, -, rfl⟩ | ⟨-, v, -, rfl⟩⟩ := runPacket_next h
  · exact ⟨⟨rfl, rfl, rfl, rfl, rfl⟩, .inl ⟨rfl, rfl, rfl⟩, .inr rfl, nofun⟩
  · exact ⟨⟨rfl, rfl, rfl, rfl, rfl⟩, .inr ⟨rfl, rfl⟩, .inr rfl, nofun⟩
  · exact ⟨⟨rfl, rfl, rfl, rfl, rfl⟩, .inr ⟨rfl, rfl⟩, .inl rfl,
      fun _ => ⟨rfl, rfl, rfl, fun ht => ⟨if_neg ht, if_neg ht⟩⟩⟩

/-! ## The host commands at Ready (44_scanner.md R194, R204 to R206) -/

theorem acceptAdvance_failed (d : Option Token) {s : State} (h : s.st = .failed) :
    acceptAdvance d s = answer (.fail s.err s.errInfo) s := by
  simp only [acceptAdvance, h]

theorem acceptAdvance_exhausted (d : Option Token) {s : State} (h : s.st = .exhausted) :
    acceptAdvance d s = answer .endOfSequence s := by
  simp only [acceptAdvance, h]

theorem acceptAdvance_starts (d : Option Token) {s : State} (h : s.st = .idle ∨ s.st = .holding) :
    acceptAdvance d s = startAdvance d s := by
  rcases h with h | h <;> simp only [acceptAdvance, h]

/-- Settles O34: ADVANCE is taken in flight from Idle and Holding alone; the terminal states repeat their answer. -/
theorem advanceAccepted : Obligations.AdvanceAccepted := by
  intro d s hp
  have hexec : exec (.advance d) s = .next (acceptAdvance d s) := whenReady_ready hp
  rw [hexec]
  exact ⟨fun h => congrArg _ (acceptAdvance_failed d h), fun h => congrArg _ (acceptAdvance_exhausted d h),
    fun h => congrArg _ (acceptAdvance_starts d h)⟩

theorem exec_plainRead_ready {i : Instr} {s : State} (h : isPlainRead i = true) (hp : s.phase = .ready) :
    exec i s = .next { s with resp := some (plainReply i s) } :=
  (exec_plainRead_idempotent h hp).1

/-- Settles O35. -/
theorem currentKindAnswers : Obligations.CurrentKindAnswers := fun _ hp => exec_plainRead_ready rfl hp

theorem typedReply_eq {mine : Bool} {p : Prop} [Decidable p] (s : State) (h : mine = true ↔ p) :
    typedReply mine s = if s.st = .holding ∧ p then .value s.val else .invalid := by
  simp only [typedReply, h]

/-- The tag of a byte that is no kind code is `Unknown` of that byte (30_encoding.md R94). -/
theorem not_tagKnown_iff (cfg : Params) (k : Byte) : (!tagKnown (tag cfg k)) = true ↔ tag cfg k = .unknown k := by
  rw [tag_eq_unknown_iff, ← tagKnown_tag_iff]
  simp

/-- Settles O36: each accessor's own test says that the current tag is its own. -/
theorem accessorsAnswer : Obligations.AccessorsAnswer := by
  intro s hp reply
  have hreply : ∀ {i : Instr} {mine : Bool} {p : Prop} [Decidable p], isPlainRead i = true →
      plainReply i s = typedReply mine s → (mine = true ↔ p) → exec i s = reply p := by
    intro i mine p _ hi hr hm
    rw [exec_plainRead_ready hi hp, hr, typedReply_eq s hm]
  exact ⟨hreply rfl rfl decide_eq_true_iff, hreply rfl rfl decide_eq_true_iff, hreply rfl rfl decide_eq_true_iff,
    hreply rfl rfl decide_eq_true_iff, hreply rfl rfl decide_eq_true_iff, hreply rfl rfl decide_eq_true_iff,
    hreply rfl rfl (not_tagKnown_iff s.cfg s.kind)⟩

/-- Settles O37: `PKT[0:PKTLEN)` is the first `PKTLEN` bytes. -/
theorem rawPacketAnswers : Obligations.RawPacketAnswers := by
  intro s hp
  rw [exec_plainRead_ready rfl hp]
  refine ⟨fun hst => ?_, fun hst => ?_⟩
  · have hr : plainReply .rawPacket s = .bytes (slice s.pkt 0 s.pktLen.toNat) := if_pos hst
    rw [hr]
  · rw [plainReply_of_not_holding _ hst]

/-! ## The source's answers (44_scanner.md R192, R197 to R199) -/

theorem exec_data {c : List Byte} {s : State} (hp : s.phase = .waitSrc) (hc : s.cfg.chunkFits c = true) :
    exec (.data c) s = .next (deliver c s) :=
  (if_pos hc).trans (whenAsked_asked hp)

theorem exec_eos {s : State} (hp : s.phase = .waitSrc) : exec .eos s = .next (endStream (closeRead s)) :=
  whenAsked_asked hp

theorem exec_ioerr {s : State} (hp : s.phase = .waitSrc) :
    exec .ioerr s = .next (trap .io (Config.freeErrInfo s.freeCtr) (closeRead s)) :=
  whenAsked_asked hp

/-- Settles O42: the delivery is appended, so what stands before it reads as before. -/
theorem dataIsAppended : Obligations.DataIsAppended := fun c s hp _ hc =>
  ⟨_, exec_data hp hc, rfl, List.length_append, fun _ ha => byteAt_append_left s.buf c ha,
    byteAt_append_right s.buf c⟩

/-- Settles O43. -/
theorem eosEndsCleanly : Obligations.EosEndsCleanly := fun _ hp => ⟨_, exec_eos hp, rfl⟩

/-- Settles O44. -/
theorem ioerrTraps : Obligations.IoerrTraps := fun _ hp => ⟨_, _, exec_ioerr hp, trapped_trap .io _ _⟩

/-! ## What is out of turn (44_scanner.md R190, R192, R195) -/

theorem whenReady_fault {t s : State} (h : s.phase ≠ .ready) : whenReady t s = .fault .commandInFlight := if_neg h

theorem whenAsked_fault {t s : State} (h : s.phase ≠ .waitSrc) : whenAsked t s = .fault .unaskedAnswer := if_neg h

theorem exec_command_in_flight {i : Instr} {s : State} (hc : isCommand i = true) (hp : s.phase ≠ .ready) :
    exec i s = .fault .commandInFlight := by
  rcases isCommand_cases hc with hr | rfl | ⟨d, rfl⟩
  · exact (exec_plainRead hr s).trans (whenReady_fault hp)
  · exact whenReady_fault hp
  · exact whenReady_fault hp

theorem chunkFits_iff {cfg : Params} {c : List Byte} {m : Nat} (h : cfg.chunkMax = some m) :
    cfg.chunkFits c = true ↔ c.length ≤ m := by
  simp only [Params.chunkFits, h, decide_eq_true_eq]

theorem chunkFits_nil (cfg : Params) : cfg.chunkFits [] = true := by
  unfold Params.chunkFits
  split
  · rfl
  · exact decide_eq_true (Nat.zero_le _)

/-- Settles O45: every instruction has its turn, the phase in which it is accepted; the bound is looked at first. -/
theorem outOfTurnStops : Obligations.OutOfTurnStops := by
  refine fun s => ⟨fun hp i hc => exec_command_in_flight hc hp,
    fun hp => ⟨whenAsked_fault hp, whenAsked_fault hp, fun c hc => (if_pos hc).trans (whenAsked_fault hp)⟩,
    fun c m hm hlt => if_neg ?_, fun hp => ?_, fun hp i p hi => ?_⟩
  · rw [chunkFits_iff hm]
    exact Nat.not_le.2 hlt
  · rw [exec_data hp (chunkFits_nil s.cfg), deliver, List.append_nil]
  · rw [exec_packet hi]
    exact if_neg hp

end Sys2Proof

/-! PROOFS. The step: what each agent's move is as an equation of `step`, and ADVANCE as one step reached by the small
ones (44_scanner.md R190 to R203, R208, R209). -/

namespace Sys2Proof

open Sys2Proof.Machine

/-! ## The move of each agent (44_scanner.md R190, R192, R209) -/

theorem step_command {s : State} {w : HostWord} {rest : List HostEvent} {i : Instr} (hp : s.phase = .ready)
    (hq : s.hostQ = .command w :: rest) (hd : decodeHost w = .ok i) : step s = exec i { s with hostQ := rest } := by
  rw [step_eq, fetch, hq]
  dsimp only
  rw [if_pos hp, fetchCommand, hd]
  rfl

/-- While the host waits, an ADVANCE in flight goes on. -/
theorem step_in_flight {s : State} (hw : HostWaits s.hostQ) (hp : s.phase ≠ .ready) :
    step s = runFetched (fetchInner s) := by
  rw [step_eq, fetch_of_waits hw hp]

theorem step_answer {s : State} {a : SrcEvent} {rest : List SrcEvent} (hw : HostWaits s.hostQ)
    (hp : s.phase = .waitSrc) (hq : s.srcQ = a :: rest) : step s = exec (srcInstr a) { s with srcQ := rest } := by
  rw [step_in_flight hw (by simp [hp]), fetchInner, hp]
  simp only [fetchSource, hq, runFetched, hp]

/-- Settles O46. -/
theorem stepRunsCommandOrAnswer : Obligations.StepRunsCommandOrAnswer := fun _ =>
  ⟨fun _ _ _ => step_command, fun _ _ => step_answer⟩

theorem fetchInner_ready {s : State} (hp : s.phase = .ready) : fetchInner s = .settled (.next s) := by
  rw [fetchInner, hp]

theorem fetchInner_unanswered {s : State} (hp : s.phase = .waitSrc) (hq : s.srcQ = []) :
    fetchInner s = .settled (.next s) := by
  rw [fetchInner, hp]
  simp only [fetchSource, hq]

/-- Settles O49: with nothing from the host, only the agent `PHASE` names could move. -/
theorem waitingKeepsState : Obligations.WaitingKeepsState := by
  intro s hq h
  rw [step_eq, fetch, hq]
  dsimp only
  rcases h with hp | ⟨hp, hs⟩
  · rw [fetchInner_ready hp, runFetched]
  · rw [fetchInner_unanswered hp hs, runFetched]

/-! ## The Run step by the outcome of LOCATE (44_scanner.md R195, R196, R200 to R202) -/

section RunStep

variable {s : State} (hw : HostWaits s.hostQ) (hp : s.phase = .run)
include hw hp

theorem step_run : step s = runFetched (fetchRun s) := by
  rw [step_in_flight hw (by simp [hp]), fetchInner, hp]

theorem step_run_needMore (hl : locator s.cfg s.buf = .needMore) : step s = .next (requestRead (locateBuf s)) := by
  simp only [step_run hw hp, fetchRun, hl, runFetched]

theorem step_run_skip {k : Nat} (hl : locator s.cfg s.buf = .skip k) :
    step s = .next (discard k (locateBuf s)) := by
  simp only [step_run hw hp, fetchRun, hl, runFetched]

theorem step_run_fatal {e : ErrCode} {info : Nat × Nat} (hl : locator s.cfg s.buf = .fatal e info) :
    step s = .next (trap e info (locateBuf s)) := by
  simp only [step_run hw hp, fetchRun, hl, runFetched]

theorem step_run_emit {p : List Byte} {n : Nat} (hl : locator s.cfg s.buf = .emit p n) :
    step s = exec (packetInstr s.cfg p) (locateBuf s) := by
  simp only [step_run hw hp, fetchRun, hl, runFetched]

end RunStep

/-- Settles O48: the fields an act writes, from what LOCATE leaves of the rest. -/
theorem runStepActsOnOutcome : Obligations.RunStepActsOnOutcome := by
  intro s u hw hp hu
  cases hu
  refine ⟨fun hl => ?_, fun k hl => ?_, fun e info hl => ⟨_, step_run_fatal hw hp hl, trapped_trap e info _⟩⟩
  · rw [step_run_needMore hw hp hl, requestRead, locateBuf_deadline]
  · rw [step_run_skip hw hp hl, Machine.discard, locateBuf_buf, locateBuf_pos]

/-- A whole packet at the head of `BUF`, executed after LOCATE, finds in the Checksum unit what its own checks leave. -/
theorem setCk_locateBuf_of_packet {s : State} {k : Byte} {q : List Byte} {ck : Word16} {rest : List Byte}
    (hq : q.length ≤ 65535) (hb : s.buf = packetBytes k q ck ++ rest) :
    setCk (ckFold (covered k q)) (locateBuf s) = locateBuf s := by
  have hT : totalLen s.buf = (packetBytes k q ck).length := by
    rw [hb, totalLen_packetBytes k ck rest hq, packetBytes_length]
  have ha : aligned s.buf = true := by rw [hb, aligned_packetBytes]
  have hlen : s.buf.length = 7 + q.length + rest.length := by rw [hb, List.length_append, packetBytes_length]
  refine setCk_locateBuf (ck := ck) ?_ hq ?_
  · rw [hT, hb, List.take_left]
  · rw [reachesChecksum_iff, ← aligned_iff (by omega), hT, packetBytes_length]
    exact ⟨by omega, ha, by omega⟩

/-- Settles O47: LOCATE emits the packet, or the packet's own checks find the fault LOCATE found. -/
theorem stepRunsPacket : Obligations.StepRunsPacket := by
  intro s i rest hw hp hd
  obtain ⟨k, q, ck, hq, hb, rfl⟩ := decodePacket_ok hd
  refine ⟨locateBuf s, exec_locate s, ?_⟩
  have hl := locator_packet s.cfg k q ck rest hq
  rw [← hb] at hl
  cases hf : packetFault s.cfg (covered k q) ck with
  | none =>
    rw [hf] at hl
    rw [step_run_emit hw hp hl, packetInstr_packetBytes _ _ _ hq]
  | some d =>
    rw [hf] at hl
    have hrun := runPacket_fault (dec := decodeMessage s.cfg k q) (s := locateBuf s) ((locateBuf_phase s).trans hp)
      ((locateBuf_cfg s).symm ▸ hf)
    rw [setCk_locateBuf_of_packet hq hb] at hrun
    rw [step_run_fatal hw hp hl, ← hrun, ← locateBuf_cfg s, exec_kindInstr]

/-! ## ADVANCE as one step (44_scanner.md R203, R208) -/

theorem payloadLen_packet (k : Byte) {q : List Byte} (ck : Word16) (hq : q.length ≤ 65535) :
    payloadLen (packetBytes k q ck) = q.length := by
  have h := payloadLen_packetBytes k ck [] hq
  rwa [List.append_nil] at h

theorem payloadOf_packetBytes (k : Byte) {q : List Byte} (ck : Word16) (hq : q.length ≤ 65535) :
    payloadOf (packetBytes k q ck) = q := by
  rw [payloadOf, payloadLen_packet k ck hq]
  exact slice_packetBytes k q ck

/-- Executing what LOCATE emitted is the act of R203 on `EMIT(P, T)`. -/
theorem exec_emitted {s : State} {p : List Byte} {n : Nat} (hp : s.phase = .run)
    (hl : locator s.cfg s.buf = .emit p n) :
    exec (packetInstr s.cfg p) (locateBuf s) = .next (emitPacket p n (locateBuf s)) := by
  obtain ⟨h5, ha, hT, rfl, rfl, hf⟩ := locator_emit hl
  obtain ⟨k, q, ck, hq, hpk, hn, -⟩ := packet_at_head h5 ha hT
  have hck := setCk_locateBuf hpk hq ((reachesChecksum_iff _).2 ⟨h5, ha, hT⟩)
  rw [hpk, coveredOf_packetBytes k ck hq, ckFieldOf_packetBytes k ck hq, ← locateBuf_cfg s] at hf
  have hrun : (locateBuf s).phase = .run := (locateBuf_phase s).trans hp
  rw [hpk, hn, packetInstr_packetBytes _ _ _ hq, ← locateBuf_cfg s, exec_kindInstr, emitPacket,
    byteAt_packetBytes_two, payloadOf_packetBytes k ck hq]
  cases hd : decodeMessage (locateBuf s).cfg k q with
  | error d => rw [runPacket_error hrun hf, hck]
  | ok v => rw [runPacket_ok hrun hf, hck]

/-- Some number of steps leads from `s` to `t`. -/
def Reaches (s t : State) : Prop := ∃ n, Sys2Proof.core.run n s = .next t

theorem Reaches.refl (s : State) : Reaches s s := ⟨0, rfl⟩

theorem Reaches.head {s u t : State} (h : step s = .next u) (ht : Reaches u t) : Reaches s t := by
  obtain ⟨n, hn⟩ := ht
  exact ⟨n + 1, (run_succ_of_step n h).trans hn⟩

theorem Reaches.single {s t : State} (h : step s = .next t) : Reaches s t := .head h (.refl t)

/-- The state with the source's script `l`: R203's function has the script as an argument of its own. -/
def withScript (l : List SrcEvent) (s : State) : State := { s with srcQ := l }

/-- LOCATE does not look at the source's script. -/
theorem locateBuf_withScript (l : List SrcEvent) (s : State) :
    locateBuf (withScript l s) = withScript l (locateBuf s) := by
  rw [locateBuf_frame (withScript l s), locateBuf_frame s]
  simp [withScript]

/-- What R203's loop does between two reads is LOCATE on a state in which no `SKIP` is left, the present one or the one
a `SKIP` leads to (R208). -/
theorem settleRun_eq (s : State) :
    ∃ v, settleRun s = (locateBuf v, locator v.cfg v.buf) ∧ (∀ k, locator v.cfg v.buf ≠ .skip k) ∧
      (v = s ∨ ∃ k, locator s.cfg s.buf = .skip k ∧ v = discard k (locateBuf s)) := by
  cases hl : locator s.cfg s.buf with
  | skip k =>
    have hbuf : (discard k (locateBuf s)).buf = s.buf.drop k := by rw [discard_buf, locateBuf_buf]
    have hcfg : (discard k (locateBuf s)).cfg = s.cfg := locateBuf_cfg s
    obtain ⟨-, -, -, hno⟩ := noSkipAfterSkip s.cfg s.buf k hl
    refine ⟨discard k (locateBuf s), ?_, ?_, .inr ⟨k, rfl, rfl⟩⟩
    · simp only [settleRun, hl, hbuf, hcfg]
    · rwa [hbuf, hcfg]
  | _ => exact ⟨s, by simp only [settleRun, hl], by simp [hl], .inl rfl⟩

/-- The steps between two reads: at most one, a `SKIP`'s, whatever the source's script. -/
theorem reaches_of_settleRun {s : State} (hw : HostWaits s.hostQ) (hp : s.phase = .run) :
    ∃ v, settleRun s = (locateBuf v, locator v.cfg v.buf) ∧ (∀ k, locator v.cfg v.buf ≠ .skip k) ∧
      HostWaits v.hostQ ∧ v.phase = .run ∧ v.cfg = s.cfg ∧
      ∀ l t, Reaches (withScript l v) t → Reaches (withScript l s) t := by
  obtain ⟨v, hset, hno, rfl | ⟨k, hl, rfl⟩⟩ := settleRun_eq s
  · exact ⟨v, hset, hno, hw, hp, rfl, fun _ _ h => h⟩
  · refine ⟨_, hset, hno, ?_, (locateBuf_phase s).trans hp, locateBuf_cfg s, fun l t h => .head ?_ h⟩
    · rwa [discard_hostQ, locateBuf_hostQ]
    · rw [step_run_skip (s := withScript l s) hw hp hl, locateBuf_withScript]
      rfl

section Loop

variable {s t : State}

theorem advanceLoop_emit (l : List SrcEvent) {p : List Byte} {n : Nat} (h : settleRun s = (t, .emit p n)) :
    advanceLoop s l = emitPacket p n (withScript l t) := by
  cases l <;> rw [advanceLoop, h] <;> rfl

theorem advanceLoop_fatal (l : List SrcEvent) {e : ErrCode} {info : Nat × Nat} (h : settleRun s = (t, .fatal e info)) :
    advanceLoop s l = trap e info (withScript l t) := by
  cases l <;> rw [advanceLoop, h] <;> rfl

theorem advanceLoop_unanswered (h : settleRun s = (t, .needMore)) :
    advanceLoop s [] = requestRead (withScript [] t) := by
  rw [advanceLoop, h]; rfl

theorem advanceLoop_data (c : List Byte) (rest : List SrcEvent) (h : settleRun s = (t, .needMore)) :
    advanceLoop s (.data c :: rest) = advanceLoop (deliver c (requestRead t)) rest := by
  rw [advanceLoop, h]

theorem advanceLoop_eos (rest : List SrcEvent) (h : settleRun s = (t, .needMore)) :
    advanceLoop s (.eos :: rest) = endStream (closeRead (requestRead (withScript rest t))) := by
  rw [advanceLoop, h]; rfl

theorem advanceLoop_ioerr (rest : List SrcEvent) (h : settleRun s = (t, .needMore)) :
    advanceLoop s (.ioerr :: rest) =
      trap .io (Config.freeErrInfo t.freeCtr) (closeRead (requestRead (withScript rest t))) := by
  rw [advanceLoop, h]; rfl

end Loop

/-- Up to the next read: the ADVANCE is answered as the loop answers it, or the loop's read request is sent. -/
theorem reaches_loop_or_request {s : State} (hw : HostWaits s.hostQ) (hp : s.phase = .run) :
    (∀ l, Reaches (withScript l s) (advanceLoop s l)) ∨
    ∃ t, settleRun s = (t, .needMore) ∧ HostWaits t.hostQ ∧ t.cfg = s.cfg ∧
      ∀ l u, Reaches (requestRead (withScript l t)) u → Reaches (withScript l s) u := by
  obtain ⟨v, hset, hno, hwv, hpv, hcfg, hreach⟩ := reaches_of_settleRun hw hp
  cases hl : locator v.cfg v.buf with
  | skip k => exact absurd hl (hno k)
  | emit p n =>
    refine .inl fun l => hreach l _ (.single ?_)
    rw [advanceLoop_emit l (hl ▸ hset), step_run_emit (s := withScript l v) hwv hpv hl,
      exec_emitted (s := withScript l v) hpv hl, locateBuf_withScript]
  | fatal e info =>
    refine .inl fun l => hreach l _ (.single ?_)
    rw [advanceLoop_fatal l (hl ▸ hset), step_run_fatal (s := withScript l v) hwv hpv hl, locateBuf_withScript]
  | needMore =>
    refine .inr ⟨locateBuf v, hl ▸ hset, ?_, (locateBuf_cfg v).trans hcfg, fun l u h => hreach l u (.head ?_ h)⟩
    · rwa [locateBuf_hostQ]
    · rw [step_run_needMore (s := withScript l v) hwv hpv hl, locateBuf_withScript]

/-- From the Run step the small steps reach what the loop of R203 makes of the source's script. -/
theorem reaches_advanceLoop (l : List SrcEvent) {s : State} (hw : HostWaits s.hostQ) (hp : s.phase = .run)
    (hfit : ∀ c, SrcEvent.data c ∈ l → s.cfg.chunkFits c = true) : Reaches (withScript l s) (advanceLoop s l) := by
  induction l generalizing s with
  | nil =>
    rcases reaches_loop_or_request hw hp with h | ⟨t, hset, -, -, hreq⟩
    · exact h []
    · rw [advanceLoop_unanswered hset]
      exact hreq [] _ (.refl _)
  | cons a rest ih =>
    rcases reaches_loop_or_request hw hp with h | ⟨t, hset, hwt, hcfg, hreq⟩
    · exact h (a :: rest)
    · have hstep : step (requestRead (withScript (a :: rest) t)) =
          exec (srcInstr a) (requestRead (withScript rest t)) :=
        step_answer (s := requestRead (withScript (a :: rest) t)) hwt rfl rfl
      apply hreq
      cases a with
      | data c =>
        have hc : t.cfg.chunkFits c = true := hcfg ▸ hfit c List.mem_cons_self
        rw [advanceLoop_data c rest hset]
        refine .head (hstep.trans (exec_data rfl hc)) (ih (s := deliver c (requestRead t)) hwt rfl fun c' hc' => ?_)
        exact (congrArg (Params.chunkFits · c') hcfg).trans (hfit c' (List.mem_cons_of_mem _ hc'))
      | eos =>
        rw [advanceLoop_eos rest hset]
        exact .single (hstep.trans (exec_eos rfl))
      | ioerr =>
        rw [advanceLoop_ioerr rest hset]
        exact .single (hstep.trans (exec_ioerr rfl))

/-- R203's whole command is what the acceptance does, or the loop from the state it leaves. -/
theorem advanceWhole_cases (d : Option Token) (s : State) :
    advanceWhole d s = acceptAdvance d s ∨
    (acceptAdvance d s = startAdvance d s ∧ advanceWhole d s = advanceLoop (startAdvance d s) s.srcQ) := by
  unfold advanceWhole acceptAdvance
  cases s.st with
  | failed | exhausted => exact .inl rfl
  | idle | holding => exact .inr ⟨rfl, rfl⟩

/-- Settles O60: the command's own step leaves the answer of a terminal state, or the loop's start. -/
theorem advanceAsOneStepAgrees : Obligations.AdvanceAsOneStepAgrees := by
  intro s w rest d hp hq hd hw hs
  have hstep : step s = .next (acceptAdvance d { s with hostQ := rest }) :=
    (step_command hp hq hd).trans (whenReady_ready hp)
  show Reaches s _
  rcases advanceWhole_cases d { s with hostQ := rest } with hwhole | ⟨hacc, hwhole⟩
  · rw [hwhole]
    exact .single hstep
  · rw [hacc] at hstep
    rw [hwhole]
    exact .head hstep (reaches_advanceLoop s.srcQ (s := startAdvance d { s with hostQ := rest }) hw rfl hs)

end Sys2Proof

/-! PROOFS. What every move keeps: the invariant of Holding, the port discipline and the occupancy of `BUF`, the moves
of `ST`, and the place of `BUF` in the stream (10_state.md R22, R27, 20_memory.md R66, 44_scanner.md R190, R207). -/

namespace Sys2Proof

open Sys2Proof.Machine

/-! ## The invariant of Holding (10_state.md R27) -/

/-- R27 does not speak of what LOCATE writes. -/
theorem holdingInv_locateBuf {s : State} (h : HoldingInv s) : HoldingInv (locateBuf s) := by
  rw [locateBuf_frame]
  exact { h with }

/-- Yielding a record keeps the cursor at or below the count. -/
theorem HoldingInv.record {s : State} (h : HoldingInv s) (r : Response) (hm : moreRecords s = true) :
    HoldingInv (answer r { s with svCur := s.svCur + 1 }) := by
  have hlt : s.svCur.toNat < s.svCnt.toNat := of_decide_eq_true hm
  have hle : (s.svCur + 1).toNat ≤ s.svCnt.toNat := (toNat_succ_of_lt hlt).trans_le hlt
  exact { h with cursor := fun ht => ⟨(h.cursor ht).1, hle⟩ }

theorem packetFault_eq_none_iff {cfg : Params} {k : Byte} {q : List Byte} {ck : Word16} :
    packetFault cfg (covered k q) ck = none ↔ checksum (covered k q) = ck ∧ shapeFault cfg k q = none := by
  rw [packetFault_eq]
  split_ifs with h <;> simp [h]

/-- What the Version decoder accepts is the supported version (42_message_decoders.md R153). -/
theorem decodeVersion_ok {q : List Byte} {v : Value} (h : decodeVersion q = .ok v) :
    ∃ r, v = .version r ∧ r.high = 0 ∧ r.medium = 1 ∧ r.low = 0 := by
  by_cases hq : byteAt q 4 = 0 ∧ byteAt q 5 = 1 ∧ byteAt q 6 = 0
  · cases (decodeVersion_supported hq).symm.trans h
    exact ⟨_, rfl, rfl, rfl, rfl⟩
  · cases (decodeVersion_unsupported hq).symm.trans h

/-- What the Status decoder accepts has `HasFix` 0 or 1 (42_message_decoders.md R155). -/
theorem decodeStatus_ok {q : List Byte} {v : Value} (h : decodeStatus q = .ok v) :
    ∃ r, v = .status r ∧ (r.hasFix = 0 ∨ r.hasFix = 1) := by
  by_cases hq : byteAt q 7 = 0 ∨ byteAt q 7 = 1
  · cases (decodeStatus_valid hq).symm.trans h
    exact ⟨_, rfl, hq⟩
  · cases (decodeStatus_invalid hq).symm.trans h

/-- A packet that passes its checks and its decoder establishes R27 when it is held. -/
theorem holdingInv_hold {k : Byte} {q : List Byte} {ck : Word16} {v : Value} {s : State} (hq : q.length ≤ 65535)
    (hf : packetFault s.cfg (covered k q) ck = none) (hv : decodeMessage s.cfg k q = .ok v) :
    HoldingInv (hold (packetBytes k q ck) v s) := by
  obtain ⟨hsum, hshape⟩ := packetFault_eq_none_iff.1 hf
  have hN := payloadLen_packet k ck hq
  have hQ := payloadOf_packetBytes k ck hq
  have hlen : (hold (packetBytes k q ck) v s).pktLen.toNat = 7 + q.length := by simp; omega
  have hend : 7 + q.length - 2 = 5 + q.length := by omega
  refine
    { sync0 := rfl, sync1 := rfl, kind := rfl, pktLen := ?pktLen, size := ?size, checksum := ?checksum
      shape := ?shape, value := ?value, version := fun ht => ?version, status := fun ht => ?status
      cursor := fun ht => ⟨if_pos ht, ?cursor⟩ }
  case pktLen => rw [hlen, hold_pkt, hN]
  case size => rw [hlen, hold_pkt, packetBytes_length]
  case checksum => rw [hlen, hend, hold_pkt, slice_covered, le16_ckField, hsum]
  case shape =>
    rw [hold_pkt, hold_cfg, hold_kind, hQ, hN]
    exact shapeFault_eq_none_iff.1 hshape
  case value =>
    rw [hold_pkt, hold_cfg, hold_kind, hQ, hold_val]
    exact hv
  case version =>
    have ht' : tag s.cfg k = .version := ht
    rw [decodeMessage, ht'] at hv
    exact decodeVersion_ok hv
  case status =>
    have ht' : tag s.cfg k = .status := ht
    rw [decodeMessage, ht'] at hv
    exact decodeStatus_ok hv
  case cursor =>
    have hcur : (hold (packetBytes k q ck) v s).svCur = 0 := if_pos ht
    rw [hcur]
    exact Nat.zero_le _

/-- In Holding after a move, either the packet held before is held still, or one has passed its checks. -/
theorem holdingInv_move {u t : State} (hu : u.st = .holding → HoldingInv u) (h : Move u t) (ht : t.st = .holding) :
    HoldingInv t := by
  have hl : (locateBuf u).st = .holding → HoldingInv (locateBuf u) := fun hst =>
    holdingInv_locateBuf (hu ((locateBuf_st u).symm.trans hst))
  cases h with
  | reply | start | wait | data => exact { hu ht with }
  | record r _ _ hm => exact (hu ht).record r hm
  | ask | skip => exact { hl ht with }
  | eos | ioerr | fatal | reject => cases ht
  | accept k q ck v _ _ hq hf hv =>
    have hcfg := locateBuf_cfg u
    exact holdingInv_hold hq (by rwa [discard_cfg, hcfg]) (by rwa [discard_cfg, hcfg])

/-! ## The port discipline (44_scanner.md R190 to R198) -/

/-- Nothing is in flight, nothing is asked. -/
theorem portInv_at_rest {s : State} (hp : s.phase = .ready) (hd : s.deadline = none) (hr : s.rdReq = none) :
    PortInv s where
  inFlight h := absurd hp h
  atRest _ := hd
  asking h := nomatch hp.symm.trans h
  notAsking _ := hr

/-- At the Run step an ADVANCE is in flight and nothing is asked. -/
theorem portInv_at_run {s : State} (hp : s.phase = .run) (hst : s.st = .idle ∨ s.st = .holding)
    (hresp : s.resp = none) (hr : s.rdReq = none) : PortInv s where
  inFlight _ := ⟨hst, hresp⟩
  atRest h := nomatch hp.symm.trans h
  asking h := nomatch hp.symm.trans h
  notAsking _ := hr

theorem PortInv.of_run {s : State} (h : PortInv s) (hp : s.phase = .run) :
    (s.st = .idle ∨ s.st = .holding) ∧ s.resp = none ∧ s.rdReq = none := by
  have hready : s.phase ≠ .ready := by simp [hp]
  have hwait : s.phase ≠ .waitSrc := by simp [hp]
  obtain ⟨hst, hresp⟩ := h.inFlight hready
  exact ⟨hst, hresp, h.notAsking hwait⟩

theorem PortInv.of_waitSrc {s : State} (h : PortInv s) (hp : s.phase = .waitSrc) :
    (s.st = .idle ∨ s.st = .holding) ∧ s.resp = none ∧ locator s.cfg s.buf = .needMore := by
  have hready : s.phase ≠ .ready := by simp [hp]
  obtain ⟨hst, hresp⟩ := h.inFlight hready
  exact ⟨hst, hresp, (h.asking hp).2⟩

theorem PortInv.of_ready {s : State} (h : PortInv s) (hp : s.phase = .ready) :
    s.deadline = none ∧ s.rdReq = none :=
  ⟨h.atRest hp, h.notAsking (by simp [hp])⟩

/-- A read request is sent on `NEED_MORE` alone and with the deadline of the ADVANCE; every answer takes it back. -/
theorem portInv_move {u t : State} (hu : PortInv u) (h : Move u t) : PortInv t := by
  cases h with
  | reply r hp | record r hp =>
    obtain ⟨hd, hr⟩ := hu.of_ready hp
    exact portInv_at_rest hp hd hr
  | start d hp hst =>
    obtain ⟨-, hr⟩ := hu.of_ready hp
    exact portInv_at_run rfl hst rfl hr
  | wait => exact hu
  | data c rest hp =>
    obtain ⟨hst, hresp, -⟩ := hu.of_waitSrc hp
    exact portInv_at_run rfl hst hresp rfl
  | eos | ioerr => exact portInv_at_rest rfl rfl rfl
  | ask hp hl =>
    obtain ⟨hst, hresp, -⟩ := hu.of_run hp
    exact
      { inFlight := fun _ => by simpa using ⟨hst, hresp⟩
        atRest := nofun
        asking := fun _ => by simpa using hl
        notAsking := fun hne => absurd rfl hne }
  | skip k hp =>
    obtain ⟨hst, hresp, hr⟩ := hu.of_run hp
    exact portInv_at_run (by simpa using hp) (by simpa using hst) (by simpa using hresp) (by simpa using hr)
  | fatal _ _ hp | reject _ _ _ hp | accept _ _ _ _ hp =>
    obtain ⟨-, -, hr⟩ := hu.of_run hp
    exact portInv_at_rest rfl rfl (by simpa using hr)

/-! ## Occupancy of `BUF` (20_memory.md R66) -/

/-- Away from WaitSrc only the bound of all times is asked, and it goes down with the buffer. -/
theorem bufInv_of_shorter {s t : State} (h : BufInv s) (hcfg : t.cfg = s.cfg) (hle : t.buf.length ≤ s.buf.length)
    (hp : t.phase ≠ .waitSrc) : BufInv t where
  whenAsked hw := absurd hw hp
  always m hm := hle.trans (h.always m (hcfg ▸ hm))

/-- `NEED_MORE` bounds the buffer when a read is asked, and the delivery that answers it adds at most `CHUNK_MAX`. -/
theorem bufInv_move {u t : State} (hu : BufInv u) (h : Move u t) : BufInv t := by
  have hlen : (locateBuf u).buf.length ≤ u.buf.length := by rw [locateBuf_buf]
  have hdrop : ∀ k, ((locateBuf u).buf.drop k).length ≤ u.buf.length := fun k => by simp
  have hcfg := locateBuf_cfg u
  cases h with
  | reply _ hp | record _ hp => exact bufInv_of_shorter hu rfl le_rfl (by simp [hp])
  | start => exact bufInv_of_shorter hu rfl le_rfl nofun
  | wait => exact hu
  | data c rest hp _ hc =>
    refine ⟨nofun, fun m hm => ?_⟩
    have hask := hu.whenAsked hp
    have hfit := (chunkFits_iff hm).1 hc
    exact List.length_append.trans_le (Nat.add_le_add hask hfit)
  | eos | ioerr => exact bufInv_of_shorter hu rfl le_rfl nofun
  | ask hp hl =>
    obtain ⟨-, hbound⟩ := needMoreBoundsBuffer _ _ hl
    exact ⟨fun _ => hlen.trans hbound, fun m hm => hlen.trans (hu.always m (hcfg ▸ hm))⟩
  | skip k hp => exact bufInv_of_shorter hu hcfg (hdrop _) (by simp [hp])
  | fatal => exact bufInv_of_shorter hu hcfg hlen nofun
  | reject | accept => exact bufInv_of_shorter hu hcfg (hdrop _) nofun

/-! ## The invariant of the block -/

theorem inv_move {u t : State} (hu : Inv u) (h : Move u t) : Inv t where
  params := (move_cfg h).symm ▸ hu.params
  holding := holdingInv_move hu.holding h
  ports := portInv_move hu.ports h
  buffer := bufInv_move hu.buffer h

/-- A reset leaves nothing held, in flight, asked or buffered (70_reset_and_hazards.md R251). -/
theorem inv_rebind {s : State} (src : List SrcEvent) (rest : List HostEvent) (h : s.cfg.wf = true) :
    Inv (rebind src rest s) where
  params := h
  holding := nofun
  ports := portInv_at_rest rfl rfl rfl
  buffer := ⟨nofun, fun _ _ => Nat.zero_le _⟩

/-- The invariant does not speak of the host's script. -/
theorem Inv.of_script {s : State} (h : Inv s) (q : List HostEvent) : Inv { s with hostQ := q } where
  params := h.params
  holding hst := { h.holding hst with }
  ports := { h.ports with }
  buffer := { h.buffer with }

/-- Settles O53: a reset establishes the invariant, and every other step is a move. -/
theorem stepKeepsInvariant : Obligations.StepKeepsInvariant := by
  intro s t hs h
  rcases step_moves h with ⟨src, rest, -, rfl⟩ | ⟨q, hm⟩
  · exact inv_rebind src rest hs.params
  · exact inv_move (hs.of_script q) hm

/-! ## The moves of `ST` (44_scanner.md R207) -/

/-- What a move does to `ST`: nothing, with an ADVANCE in flight left in flight; or the ADVANCE's answer. -/
def StateMove (u t : State) : Prop :=
  (t.st = u.st ∧ (u.phase ≠ .ready → t.phase ≠ .ready ∧ t.resp = none)) ∨
  (u.phase ≠ .ready ∧ t.phase = .ready ∧ (u.st = .idle ∨ u.st = .holding) ∧
    ((t.st = .holding ∧ t.resp = some (.ok (tag t.cfg t.kind) t.kind)) ∨
     (t.st = .exhausted ∧ t.resp = some .endOfSequence) ∨
     (t.st = .failed ∧ t.resp = some (.fail t.err t.errInfo))))

theorem stateMove_of_move {u t : State} (hu : PortInv u) (h : Move u t) : StateMove u t := by
  cases h with
  | reply _ hp | start _ hp | record _ hp => exact .inl ⟨rfl, fun hne => absurd hp hne⟩
  | wait => exact .inl ⟨rfl, fun hne => ⟨hne, (hu.inFlight hne).2⟩⟩
  | data c rest hp =>
    obtain ⟨-, hresp, -⟩ := hu.of_waitSrc hp
    exact .inl ⟨rfl, fun _ => ⟨nofun, hresp⟩⟩
  | ask hp =>
    obtain ⟨-, hresp, -⟩ := hu.of_run hp
    exact .inl ⟨locateBuf_st u, fun _ => ⟨nofun, (locateBuf_resp u).trans hresp⟩⟩
  | skip k hp =>
    obtain ⟨-, hresp, -⟩ := hu.of_run hp
    exact .inl ⟨locateBuf_st u, fun hne => ⟨(locateBuf_phase u).trans_ne hne, (locateBuf_resp u).trans hresp⟩⟩
  | eos rest hp =>
    obtain ⟨hst, -⟩ := hu.of_waitSrc hp
    exact .inr ⟨by simp [hp], rfl, hst, .inr (.inl ⟨rfl, rfl⟩)⟩
  | ioerr rest info hp =>
    obtain ⟨hst, -⟩ := hu.of_waitSrc hp
    exact .inr ⟨by simp [hp], rfl, hst, .inr (.inr ⟨rfl, rfl⟩)⟩
  | fatal _ _ hp | reject _ _ _ hp =>
    obtain ⟨hst, -⟩ := hu.of_run hp
    exact .inr ⟨by simp [hp], rfl, hst, .inr (.inr ⟨rfl, rfl⟩)⟩
  | accept _ _ _ _ hp =>
    obtain ⟨hst, -⟩ := hu.of_run hp
    exact .inr ⟨by simp [hp], rfl, hst, .inl ⟨rfl, rfl⟩⟩

/-- Settles O55: a reset goes to Idle, and every other step is a move. -/
theorem scannerStateMoves : Obligations.ScannerStateMoves := by
  intro s t hs h
  rcases step_moves h with ⟨src, rest, hq, rfl⟩ | ⟨q, hm⟩
  · exact .inl ⟨src, rest, hq, rfl, rfl⟩
  · exact .inr (stateMove_of_move (u := { s with hostQ := q }) { hs with } hm)

/-! ## The stream (10_state.md R22, R23, R36) -/

/-- What a move does to `BUF` and `POS`: bytes leave the front and are counted, or a delivery comes behind. -/
def StreamMove (u t : State) : Prop :=
  (∃ k, k ≤ u.buf.length ∧ t.buf = u.buf.drop k ∧ t.pos = u.pos + k) ∨
  (∃ c, u.srcQ = .data c :: t.srcQ ∧ u.phase = .waitSrc ∧ t.buf = u.buf ++ c ∧ t.pos = u.pos)

theorem streamMove_of_discard {u t : State} {k : Nat} (hk : k ≤ u.buf.length)
    (hb : t.buf = (Machine.discard k (locateBuf u)).buf) (hp : t.pos = (Machine.discard k (locateBuf u)).pos) :
    StreamMove u t :=
  .inl ⟨k, hk, by rw [hb, discard_buf, locateBuf_buf], by rw [hp, discard_pos, locateBuf_pos]⟩

theorem streamMove_of_move {u t : State} (h : Move u t) : StreamMove u t := by
  cases h with
  | reply | start | record | wait | eos | ioerr => exact .inl ⟨0, Nat.zero_le _, rfl, rfl⟩
  | data c rest hp hq => exact .inr ⟨c, hq, hp, rfl, rfl⟩
  | ask | fatal => exact .inl ⟨0, Nat.zero_le _, locateBuf_buf u, locateBuf_pos u⟩
  | skip k hp hl =>
    obtain ⟨-, hk, -⟩ := noSkipAfterSkip _ _ k hl
    exact streamMove_of_discard hk rfl rfl
  | reject n e info hp hn => exact streamMove_of_discard hn rfl rfl
  | accept k q ck v hp hn => exact streamMove_of_discard hn rfl rfl

/-- Settles O56: every step but a reset is a move, and what leaves the front is counted upwards. -/
theorem streamHeadMovesForward : Obligations.StreamHeadMovesForward := by
  intro s t h hno
  rcases step_moves h with ⟨src, rest, hq, -⟩ | ⟨q, hm⟩
  · exact absurd hq (hno src rest)
  · rcases streamMove_of_move hm with ⟨k, hk, hb, hp⟩ | hd
    · exact .inl ⟨k, hk, hb, hp, hp ▸ Nat.le_add_right _ k⟩
    · exact .inr hd

end Sys2Proof

/-! PROOFS. The terminal states: nothing is in flight in them, and no move there changes anything but the response
(44_scanner.md R207, R210, 60_exceptions.md R231, R232). -/

namespace Sys2Proof

open Sys2Proof.Machine

/-- An ADVANCE is in flight only from Idle or Holding, so the block rests in a terminal state. -/
theorem PortInv.ready_of_terminal {s : State} (h : PortInv s) (hst : s.st = .failed ∨ s.st = .exhausted) :
    s.phase = .ready := by
  by_contra hp
  obtain ⟨hmoving, -⟩ := h.inFlight hp
  rcases hst with hst | hst <;> simp [hst] at hmoving

/-- At Ready, with no packet held and no ADVANCE to start, all a move can do is answer. -/
theorem move_terminal {u t : State} (hp : u.phase = .ready) (hst : u.st = .failed ∨ u.st = .exhausted)
    (h : Move u t) : t = { u with resp := t.resp } := by
  have hidle : u.st ≠ .idle := by rcases hst with hst | hst <;> simp [hst]
  have hholding : u.st ≠ .holding := by rcases hst with hst | hst <;> simp [hst]
  cases h with
  | reply | wait => rfl
  | start d _ hmoving => exact (hmoving.elim hidle hholding).elim
  | record _ _ hlist => simp [listHeld, hholding] at hlist
  | data _ _ hother | eos _ hother | ioerr _ _ hother | ask hother | skip _ hother | fatal _ _ hother
  | reject _ _ _ hother | accept _ _ _ _ hother => exact nomatch hp.symm.trans hother

/-- Settles O57: without a reset the step is a move, and a terminal state is at Ready. -/
theorem terminalStatesAreFinal : Obligations.TerminalStatesAreFinal := by
  intro s t hs hst h hno
  rcases step_moves h with ⟨src, rest, hq, -⟩ | ⟨q, hm⟩
  · exact absurd hq (hno src rest)
  · have ht := move_terminal (u := { s with hostQ := q }) (hs.ready_of_terminal hst) hst hm
    have hq : t.hostQ = q := congrArg State.hostQ ht
    rw [hq]
    exact ht

end Sys2Proof

/-! PROOFS. Reset by the host, in whatever phase and state the block stands (70_reset_and_hazards.md R250, R251;
10_state.md R39). -/

namespace Sys2Proof

open Sys2Proof.Machine

/-- The host's reset comes before `PHASE` is looked at: no command, packet or answer in flight holds it up (R250). -/
theorem step_of_reset {s : State} {src : List SrcEvent} {rest : List HostEvent}
    (h : s.hostQ = .reset src :: rest) : step s = .next (rebind src rest s) := by
  rw [step_eq, fetch, h]
  rfl

/-- Settles O50: the step is `rebind`, which gives the elements of R39 their values after reset, keeps the parameters
and binds the new source and the rest of the host's script. -/
theorem resetAtAnyTime : Obligations.ResetAtAnyTime := fun s src rest h =>
  ⟨rebind src rest s, step_of_reset h, rebind_st src rest s, rebind_buf src rest s, rebind_pos src rest s,
    rebind_phase src rest s, rebind_srcQ src rest s, rebind_hostQ src rest s, rebind_cfg src rest s,
    rebind_resp src rest s, rebind_rdReq src rest s, rebind_deadline src rest s⟩

end Sys2Proof
